-- ==== Sys2Proof/Word.lean ====
section
/-! DEFINITION. The word types of the block: bytes, 16-bit command words, and slices of byte sequences. -/

namespace Sys2Proof

/-- A byte: an unsigned 8-bit value (00_scope.md section 6). -/
abbrev Byte := BitVec 8

/-- A command word: 16 bits, delivered whole on its port (30_encoding.md R73). -/
abbrev Word := BitVec 16

/-- `s[a..b)` of 00_scope.md section 6: elements `a` to `b - 1`. -/
abbrev slice (s : List Byte) (a b : Nat) : List Byte := (s.drop a).take (b - a)

end Sys2Proof
end

