-- ==== Sys2Proof/Syntax.lean ====
section
/-! DEFINITION. The block's two request ports and its seven operations, one constructor per row of the opcode table. -/

namespace Sys2Proof

/-- The request ports of 10_state.md R30. -/
inductive Port where
  /-- `PP`, driven only by the producer. -/
  | pp
  /-- `CP`, driven only by the consumer. -/
  | cp
deriving DecidableEq, Repr

/-- The operations of 30_encoding.md R74. An operand is the 8-bit `ARG` field, used unchanged (R75). -/
inductive Instr where
  /-- `WRITE b` (41_queue.md R100). -/
  | write (b : Byte)
  /-- `READ` (R103). -/
  | read
  /-- `PEEK` (R106). -/
  | peek
  /-- `SNAPSHOT m` (R109). -/
  | snapshot (m : Byte)
  /-- `ITERATE` (R112). -/
  | iterate
  /-- `LEN` (R115). -/
  | len
  /-- `PARSE` (43_framer.md R140). -/
  | parse
deriving DecidableEq, Repr

/-- The port an operation is decoded on (30_encoding.md R74). -/
def Instr.port : Instr → Port
  | .write _ => .pp
  | .read => .cp
  | .peek => .cp
  | .snapshot _ => .cp
  | .iterate => .cp
  | .len => .cp
  | .parse => .cp

end Sys2Proof
end

