-- ==== Sys2Proof/Decode.lean ====
section
/-! DEFINITION. Command words: the total decoder of 30_encoding.md R76, the encoder, and the opcode table both stand for. -/

namespace Sys2Proof

/-- `OP`, bits 15:12 (30_encoding.md R73). -/
def opField (w : Word) : BitVec 4 := w.extractLsb' 12 4

/-- `RSV`, bits 11:8 (R73). -/
def rsvField (w : Word) : BitVec 4 := w.extractLsb' 8 4

/-- `ARG`, bits 7:0 (R73, R75). -/
def argField (w : Word) : Byte := w.extractLsb' 0 8

/-- Why a word is `Illegal` (30_encoding.md R77). All reasons get the one response `Illegal` (60_exceptions.md R195; log 17). -/
inductive DecodeError where
  /-- `RSV` is not 0. -/
  | reservedBits
  /-- `OP` is 0x0 or 0x8 to 0xF. -/
  | unknownOp
  /-- A consumer operation on `PP`, or WRITE on `CP`. -/
  | wrongPort
  /-- `ARG` is not 0x00 for an operation that takes no operand. -/
  | argNotZero
deriving DecidableEq, Repr

/-- The rows of R74 whose `ARG` must be 0x00. -/
def decodeNoArg (arg : Byte) (i : Instr) : Except DecodeError Instr :=
  if arg = 0 then .ok i else .error .argNotZero

/-- `decode(port, w)` of 30_encoding.md R76: total, every word that is none of the seven operations rejected by name. -/
def decode (p : Port) (w : Word) : Except DecodeError Instr :=
  if rsvField w ≠ 0 then .error .reservedBits
  else if opField w = 0x1 ∧ p = .pp then .ok (.write (argField w))
  else if opField w = 0x4 ∧ p = .cp then .ok (.snapshot (argField w))
  else if opField w = 0x2 ∧ p = .cp then decodeNoArg (argField w) .read
  else if opField w = 0x3 ∧ p = .cp then decodeNoArg (argField w) .peek
  else if opField w = 0x5 ∧ p = .cp then decodeNoArg (argField w) .iterate
  else if opField w = 0x6 ∧ p = .cp then decodeNoArg (argField w) .len
  else if opField w = 0x7 ∧ p = .cp then decodeNoArg (argField w) .parse
  else if opField w = 0 ∨ 8 ≤ (opField w).toNat then .error .unknownOp
  else .error .wrongPort

/-- The word with the given `OP` and `ARG` and reserved bits 0 (R73). -/
def commandWord (op : BitVec 4) (arg : Byte) : Word := op ++ (0 : BitVec 4) ++ arg

/-- The encoding of each operation (30_encoding.md R74). -/
def encode : Instr → Word
  | .write b => commandWord 0x1 b
  | .read => commandWord 0x2 0
  | .peek => commandWord 0x3 0
  | .snapshot m => commandWord 0x4 m
  | .iterate => commandWord 0x5 0
  | .len => commandWord 0x6 0
  | .parse => commandWord 0x7 0

/-- One row of spec/opcode_table.json: a word `w` on `port` is this operation exactly when `w` masked gives `pattern`. -/
structure OpcodeRow where
  mnemonic : String
  port : Port
  mask : Word
  pattern : Word
deriving DecidableEq, Repr

/-- spec/opcode_table.json, its `port`, `mask` and `match` columns. -/
def opcodeTable : List OpcodeRow :=
  [⟨"WRITE", .pp, 0xFF00, 0x1000⟩, ⟨"READ", .cp, 0xFFFF, 0x2000⟩, ⟨"PEEK", .cp, 0xFFFF, 0x3000⟩,
   ⟨"SNAPSHOT", .cp, 0xFF00, 0x4000⟩, ⟨"ITERATE", .cp, 0xFFFF, 0x5000⟩, ⟨"LEN", .cp, 0xFFFF, 0x6000⟩,
   ⟨"PARSE", .cp, 0xFFFF, 0x7000⟩]

/-- Does a word on a port match a row of the table? -/
def OpcodeRow.accepts (r : OpcodeRow) (p : Port) (w : Word) : Bool := r.port == p && w &&& r.mask == r.pattern

/-- The port a word without one is delivered on: `PP` for WRITE's `OP`, else `CP` (the table's `port` column; log 19). -/
def wordPort (w : Word) : Port := if opField w = 0x1 then .pp else .cp

/-- The command word in the low `nbits` bits of `w`; none when a bit above the 16 of a command word is set. -/
def tableWord (nbits w : Nat) : Option Word :=
  if w % 2 ^ nbits < 65536 then some (BitVec.ofNat 16 (w % 2 ^ nbits)) else none

/-- What the decoder reads from a word of the opcode table, delivered on its row's port (log 19). -/
def decodeTableWord (nbits w : Nat) : Option Instr :=
  match tableWord nbits w with
  | none => none
  | some v => (decode (wordPort v) v).toOption

end Sys2Proof
end

