-- ==== Sys2Proof/Config.lean ====
section
/-! DEFINITION. The block's constants, and the parameters fixed when a block is built (00_scope.md R8 to R17, 10_state.md R36). -/

namespace Sys2Proof

/-- The longest snapshot the framing engine takes (00_scope.md R9). -/
def snapMax : Nat := 128

/-- The least frame: sync, two length bytes, optional length, packet type and two CRCs (00_scope.md R10). -/
def minFrame : Nat := 7

/-- The sync byte (00_scope.md R11). -/
def syncByte : Byte := 0x55

/-- The capacity of the payload buffer (00_scope.md R12). -/
def payloadCap : Nat := 128

/-- The packet type of the reply frame (00_scope.md R17). -/
def replyType : Byte := 0x05

/-- The data of the reply frame (00_scope.md R17). -/
def replyData : List Byte := [0x3E, 0x01]

/-- The parameters the model takes as arguments: fixed when a block is built, the same in all its states (log 1). -/
structure Params where
  /-- `QUEUE_N`, the number of storage cells (00_scope.md R8). -/
  queueN : Nat
  /-- `RX_DEPTH`, how many bytes the receive holding register holds (R16). -/
  rxDepth : Nat
  /-- `CRC_POLY` (R14). -/
  crcPoly : Byte
  /-- `CRC_INIT` (R14). -/
  crcInit : Byte
  /-- `EVENT_TYPE` (R15). -/
  eventType : Byte
  /-- `READY_CODE` (R15). -/
  readyCode : Byte
deriving DecidableEq, Repr

/-- The defaults of 00_scope.md R14 to R16. `QUEUE_N` is OPEN: 256 is the value the spec's vectors use (R8). DESIGN CHOICE (log 1; the others' source: log 2). -/
def Params.default : Params where
  queueN := 256
  rxDepth := 1
  crcPoly := 0x07
  crcInit := 0x00
  eventType := 0x04
  readyCode := 0x04

/-- `MAX_FRAME = min(SNAP_MAX, QUEUE_N - 1)` (00_scope.md R13). -/
def Params.maxFrame (p : Params) : Nat := min snapMax (p.queueN - 1)

/-- `CURSOR_W = ceil(log2(QUEUE_N))`, the cursors' width in bits (10_state.md R20). -/
def Params.cursorW (p : Params) : Nat := Nat.log2 (p.queueN - 1) + 1

end Sys2Proof
end

