-- ==== Sys2Proof/Machine/State.lean ====
section
/-! DEFINITION. The state of the block as plain data, its reset value, and the reasons a step can stop. -/

namespace Sys2Proof.Machine

/-- The queue storage `CELL` (10_state.md R22): the cells that hold `Some b`, by rising index.
A cell that is not listed is `⊥` (log 21). -/
abbrev Memory := List Host.Cell

/-- The packet record of 10_state.md R29. -/
structure Packet where
  packetType : Byte
  data : List Byte
  optionalData : List Byte
deriving DecidableEq, Repr

/-- The outcomes of a PARSE (30_encoding.md R72). -/
inductive ParseOutcome where
  | bufferEmpty
  | notSynced
  | notEnoughBytes
  | short
  | packet (p : Packet)
deriving DecidableEq, Repr

/-- The typed responses of 30_encoding.md R78. -/
inductive Response where
  /-- WRITE: appended, or full and nothing changed. -/
  | ok (appended : Bool)
  /-- READ and PEEK: the oldest byte. -/
  | byte (b : Byte)
  /-- READ and PEEK on an empty queue. -/
  | nothing
  /-- SNAPSHOT and ITERATE. -/
  | bytes (s : List Byte)
  /-- LEN. -/
  | count (n : Nat)
  /-- PARSE. -/
  | outcome (o : ParseOutcome)
  /-- An illegal word. -/
  | illegal
deriving DecidableEq, Repr

/-- The framing engine's sequencing register (10_state.md R28; the states of 43_framer.md R140). -/
inductive Fsm where
  | idle | snap1 | scan | dropAll | dropPrefix | snap2 | hdr | dropOne | len | data | commit | event | tx | done
deriving DecidableEq, Repr

/-- One step of one agent, or one act of the environment (00_scope.md R7): what `sched` lists (log 3). -/
inductive Event where
  /-- `RXSRC` delivers a byte (42_rx_adapter.md R130). -/
  | rx (b : Byte)
  /-- `P` takes an RXSERVICE step (R131). -/
  | rxService
  /-- A port's driver places a command word on it (10_state.md R30). -/
  | request (p : Port) (w : Word)
  /-- The port's agent takes its next step on the outstanding request: it takes effect, or the PARSE in progress makes one transition. -/
  | serve (p : Port)
  /-- `TXSNK` accepts a byte (44_transmit.md R183). -/
  | txSink
  /-- Reset (70_reset_and_hazards.md R215). -/
  | reset
deriving DecidableEq, Repr

/-- The one model fault (60_exceptions.md R190). -/
inductive Fault where
  /-- `UninitRead(i)`: a MemRead of cell `i` that holds `⊥` (20_memory.md R47). Raised by `memRead`, recorded in `FAULT`;
  every later step of an agent answers it. Safe: the hardware would go on with some value. Unreachable from reset (R23). -/
  | uninitRead (i : Nat)
deriving DecidableEq, Repr

/-- Why a step can be refused: in this model it never is. -/
inductive Refusal where
  /-- An instruction without a meaning, by its mnemonic; raised by an arm of `exec` only, and no arm raises it. Safe. -/
  | notModelled (mnemonic : String)
deriving DecidableEq, Repr

/-- The working values of one PARSE (43_framer.md R140), meaningful only while it is in progress (10_state.md R26). -/
structure ParseRegs where
  /-- Bytes the first snapshot copied, 0..128. -/
  c1 : Nat
  /-- Bytes the second snapshot copied, 0..128. -/
  c2 : Nat
  /-- Index of the first sync byte, or NONE (R143). -/
  k : Option Nat
  /-- `data_length`, 16 bits (R149). -/
  dl : BitVec 16
  /-- `optional_length` (R149). -/
  ol : Byte
  /-- The packet type (R149). -/
  pt : Byte
  /-- The frame length, exact, at most 65797 (30_encoding.md R68). -/
  fl : Nat
  /-- The outcome to return. -/
  out : ParseOutcome
  /-- READs still to issue, 0..128. -/
  remaining : Nat
deriving DecidableEq, Repr

/-- Everything the spec gives the block (10_state.md; INVENTORY.md, State), and the schedule of the agents' steps. -/
structure State where
  /-- The parameters this block was built with; no step writes them (log 1). -/
  par : Params
  /-- `RD` (R20). -/
  rd : Nat
  /-- `WR` (R20). -/
  wr : Nat
  /-- `CELL` (R22). -/
  cell : Memory
  /-- `SNAPBUF` (R27), 128 bytes. -/
  snapBuf : List Byte
  /-- `SNAPCNT` (R27), 0..128. -/
  snapCnt : Nat
  /-- `FSM` (R28). -/
  fsm : Fsm
  /-- The working values of PARSE (R26, 43_framer.md R140). -/
  work : ParseRegs
  /-- `PBUSY` (R30). -/
  pbusy : Bool
  /-- `CBUSY` (R30). -/
  cbusy : Bool
  /-- The command word outstanding on `PP` (R30; log 6). -/
  ppReq : Option Word
  /-- The command word outstanding on `CP` (R30; log 6). -/
  cpReq : Option Word
  /-- The response `PP` returned last; none since the last request was accepted (log 7). -/
  ppRsp : Option Response
  /-- The response `CP` returned last; none since the last request was accepted (log 7). -/
  cpRsp : Option Response
  /-- `RXH` (R31), oldest first. -/
  rxh : List Byte
  /-- `TXPEND` (R34), oldest first. -/
  txPend : List Byte
  /-- `TXLOG` (R35), oldest first. -/
  txLog : List Byte
  /-- `FAULT` (R38). -/
  fault : Option Fault
  /-- The agents' coming steps, in order: the interleaving and the inputs the spec leaves open (R54; log 3). -/
  sched : List Event
deriving DecidableEq, Repr

/-- The working values after reset: unspecified and unobservable in the spec. DESIGN CHOICE (log 11). -/
def ParseRegs.reset : ParseRegs where
  c1 := 0
  c2 := 0
  k := none
  dl := 0
  ol := 0
  pt := 0
  fl := 0
  out := .bufferEmpty
  remaining := 0

/-- A block built with parameters `p`, right after reset (70_reset_and_hazards.md R215, 10_state.md section 9).
`SNAPBUF`, `SNAPCNT` and the working values are unspecified there: DESIGN CHOICE (log 11). -/
def State.resetWith (p : Params) : State where
  par := p
  rd := 0
  wr := 0
  cell := []
  snapBuf := List.replicate snapMax 0
  snapCnt := 0
  fsm := .idle
  work := .reset
  pbusy := false
  cbusy := false
  ppReq := none
  cpReq := none
  ppRsp := none
  cpRsp := none
  rxh := []
  txPend := []
  txLog := []
  fault := none
  sched := []

/-- The block with the default parameters, right after reset (log 1, log 4). -/
def State.reset : State := .resetWith .default

end Sys2Proof.Machine
end

