-- ==== Sys2Proof/Machine/Flags.lean ====
section
/-! DEFINITION. The derived status values: functions of the registers, not registers (10_state.md R24, R32).
The block has no flag register and no error status (R25, R37). -/

namespace Sys2Proof.Machine

/-- A cursor one position on (10_state.md R21). -/
def State.cursorNext (s : State) (c : Nat) : Nat := (c + 1) % s.par.queueN

/-- `LEN = (WR - RD) mod QUEUE_N` (R24), without a negative intermediate. -/
def State.len (s : State) : Nat := (s.wr + s.par.queueN - s.rd) % s.par.queueN

/-- `EMPTY` (R24). -/
def State.empty (s : State) : Bool := s.rd == s.wr

/-- `FULL` (R24). -/
def State.full (s : State) : Bool := s.cursorNext s.wr == s.rd

/-- `RXPEND`, the receive-interrupt request (R32). -/
def State.rxPend (s : State) : Bool := 0 < s.rxh.length

end Sys2Proof.Machine
end

