-- ==== Sys2Proof/Machine/Operands.lean ====
section
/-! DEFINITION. Operand forms: the cells the operations address (20_memory.md R45, R46) and the use of `ARG` (30_encoding.md R75). -/

namespace Sys2Proof.Machine

/-- The cell of element `j` of the queue, `j = 0` the oldest (20_memory.md R46). -/
def State.elemCell (s : State) (j : Nat) : Nat := (s.rd + j) % s.par.queueN

/-- The cell the next WRITE goes to: `WR` (20_memory.md R46). The index wraps modulo `QUEUE_N` like every other (log 12). -/
def State.tailCell (s : State) : Nat := s.wr % s.par.queueN

/-- The count operand of SNAPSHOT: `ARG` as an unsigned number (30_encoding.md R75). -/
def countOperand (arg : Byte) : Nat := arg.toNat

/-- The byte operand of WRITE: `ARG` unchanged (R75). -/
def byteOperand (arg : Byte) : Byte := arg

end Sys2Proof.Machine
end

