-- ==== Sys2Proof/Machine/Ops.lean ====
section
/-! DEFINITION. The operations everything else is made of: queue storage, the port handshake, the model fault, and transmission. -/

namespace Sys2Proof.Machine

/-! ## Queue storage as a list of cells -/

/-- The canonical form: indices strictly rising. A listed cell always holds a byte, so no entry says what an unlisted cell says. -/
abbrev Memory.wf (m : Memory) : Prop := (m.map Prod.fst).Pairwise (· < ·)

/-- The contents of a cell: `Some b`, or `⊥` when it is not listed (10_state.md R22). -/
def Memory.read : Memory → Nat → Option Byte
  | [], _ => none
  | (a, b) :: m, i => if a = i then some b else Memory.read m i

/-- The storage with cell `i` holding `Some v`. -/
def Memory.write : Memory → Nat → Byte → Memory
  | [], i, v => [(i, v)]
  | (a, b) :: m, i, v =>
    if i < a then (i, v) :: (a, b) :: m else if a = i then (i, v) :: m else (a, b) :: Memory.write m i v

/-- The storage with cell `i` holding `⊥`. -/
def Memory.clear : Memory → Nat → Memory
  | [], _ => []
  | (a, b) :: m, i => if a = i then m else (a, b) :: Memory.clear m i

/-! ## The access primitives of 00_scope.md section 6 -/

/-- `MemRead(i, 1)`: the byte, or the model fault `UninitRead(i)` (20_memory.md R47). -/
def State.memRead (s : State) (i : Nat) : Except Fault Byte :=
  match Memory.read s.cell i with
  | some b => .ok b
  | none => .error (.uninitRead i)

/-- `MemWrite(i, 1, b)`. -/
def State.memWrite (s : State) (i : Nat) (b : Byte) : State := { s with cell := Memory.write s.cell i b }

/-- `MemClear(i)`. -/
def State.memClear (s : State) (i : Nat) : State := { s with cell := Memory.clear s.cell i }

/-- `[ MemRead((RD + i) mod QUEUE_N, 1) for i = j .. j+n-1 ]`, the first fault ending it (41_queue.md R109). -/
def State.readElems (s : State) : Nat → Nat → Except Fault (List Byte)
  | _, 0 => .ok []
  | j, n + 1 =>
    match s.memRead (s.elemCell j) with
    | .error f => .error f
    | .ok b =>
      match State.readElems s (j + 1) n with
      | .error f => .error f
      | .ok bs => .ok (b :: bs)

/-- The queue's elements as the cells hold them, oldest first (20_memory.md R46). -/
def State.elems (s : State) : List (Option Byte) :=
  (List.range s.len).map fun j => Memory.read s.cell (s.elemCell j)

/-! ## The model fault -/

/-- `raise UninitRead(i)`: the step ends here with `FAULT` set; nothing else changes and no response is given
(10_state.md R38, 60_exceptions.md R190; log 9). The block has no other exception, trap entry or return (R196, R197). -/
def State.raise (s : State) (f : Fault) : State := { s with fault := some f }

/-! ## The ports (10_state.md R30) -/

/-- The word outstanding on a port. -/
def State.request (s : State) : Port → Option Word
  | .pp => s.ppReq
  | .cp => s.cpReq

/-- `PBUSY` or `CBUSY`. -/
def State.busy (s : State) : Port → Bool
  | .pp => s.pbusy
  | .cp => s.cbusy

/-- The response a port returned last. -/
def State.response (s : State) : Port → Option Response
  | .pp => s.ppRsp
  | .cp => s.cpRsp

/-- A port takes a request: its busy bit is 1 until it responds. -/
def State.accept (s : State) (p : Port) (w : Word) : State :=
  match p with
  | .pp => { s with ppReq := some w, pbusy := true, ppRsp := none }
  | .cp => { s with cpReq := some w, cbusy := true, cpRsp := none }

/-- `respond(v)`: the port returns `v` and is ready for the next request (00_scope.md section 6). -/
def State.respond (s : State) (p : Port) (r : Response) : State :=
  match p with
  | .pp => { s with ppReq := none, pbusy := false, ppRsp := some r }
  | .cp => { s with cpReq := none, cbusy := false, cpRsp := some r }

/-! ## The schedule -/

/-- The state with the events `es` coming (log 3). -/
def State.withSched (s : State) (es : List Event) : State := { s with sched := es }

/-! ## Transmission -/

/-- `emit(bytes)`: appended to the transmit stream and to the history (10_state.md R34, R35). -/
def State.emit (s : State) (bs : List Byte) : State := { s with txPend := s.txPend ++ bs, txLog := s.txLog ++ bs }

end Sys2Proof.Machine
end

