-- ==== Sys2Proof/Machine/Queue.lean ====
section
/-! DEFINITION. The circular byte queue: WRITE, READ, PEEK, SNAPSHOT, ITERATE and LEN (41_queue.md).
Each operation is one atomic transition (20_memory.md R50). -/

namespace Sys2Proof.Machine

/-! ## The operations without their ports -/

/-- WRITE on a queue that is not full: the cell write and the advance of `WR` together (41_queue.md R100, 20_memory.md R51). -/
def State.append (s : State) (b : Byte) : State :=
  { s.memWrite s.tailCell b with wr := s.cursorNext s.wr }

/-- WRITE: whether the byte was appended, and the state after (R100, R101). -/
def State.queueWrite (s : State) (b : Byte) : Bool × State :=
  if s.full then (false, s) else (true, s.append b)

/-- READ on a queue that is not empty, once its byte is read: the cell becomes `⊥` and `RD` advances (R103, R105). -/
def State.dropFront (s : State) : State :=
  { s.memClear (s.elemCell 0) with rd := s.cursorNext s.rd }

/-- READ: the oldest byte and the state after, or nothing and no change (R103, R104). -/
def State.queueRead (s : State) : Except Fault (Option Byte × State) :=
  if s.empty then .ok (none, s)
  else
    match s.memRead (s.elemCell 0) with
    | .error f => .error f
    | .ok b => .ok (some b, s.dropFront)

/-- SNAPSHOT(m): the `min(m, LEN)` oldest bytes (R109). -/
def State.snapshot (s : State) (m : Nat) : Except Fault (List Byte) := s.readElems 0 (min m s.len)

/-- The response of READ and PEEK (30_encoding.md R78). -/
def byteResponse : Option Byte → Response
  | none => .nothing
  | some b => .byte b

/-! ## The seven operations but PARSE -/

/-- `WRITE b` (41_queue.md R100, R101). -/
def execWrite (b : Byte) (s : State) : Host.Outcome State Fault Refusal :=
  .next ((s.queueWrite (byteOperand b)).2.respond .pp (.ok (s.queueWrite (byteOperand b)).1))

/-- `READ` (R103, R104, R105). -/
def execRead (s : State) : Host.Outcome State Fault Refusal :=
  match s.queueRead with
  | .error f => .next (s.raise f)
  | .ok (b, t) => .next (t.respond .cp (byteResponse b))

/-- `PEEK` (R106, R107): READ without its change. -/
def execPeek (s : State) : Host.Outcome State Fault Refusal :=
  match s.queueRead with
  | .error f => .next (s.raise f)
  | .ok (b, _) => .next (s.respond .cp (byteResponse b))

/-- `SNAPSHOT m` (R109, R110). -/
def execSnapshot (m : Byte) (s : State) : Host.Outcome State Fault Refusal :=
  match s.snapshot (countOperand m) with
  | .error f => .next (s.raise f)
  | .ok bs => .next (s.respond .cp (.bytes bs))

/-- `ITERATE` (R112): every buffered byte at once. -/
def execIterate (s : State) : Host.Outcome State Fault Refusal :=
  match s.readElems 0 s.len with
  | .error f => .next (s.raise f)
  | .ok bs => .next (s.respond .cp (.bytes bs))

/-- `LEN` (R115). -/
def execLen (s : State) : Host.Outcome State Fault Refusal :=
  .next (s.respond .cp (.count s.len))

end Sys2Proof.Machine
end

