-- ==== Sys2Proof/Machine/Crc8.lean ====
section
/-! DEFINITION. The checksum unit: the pure function of 40_crc8.md. It has no command word and no state (R91). -/

namespace Sys2Proof.Machine

/-- One of the eight shifts of `crc8_step` (40_crc8.md R90). -/
def crc8Shift (poly x : Byte) : Byte := if x.msb then (x <<< 1) ^^^ poly else x <<< 1

/-- `n` shifts. -/
def crc8Shifts (poly : Byte) : Nat → Byte → Byte
  | 0, x => x
  | n + 1, x => crc8Shifts poly n (crc8Shift poly x)

/-- `crc8_step(c, b)` (R90). -/
def crc8Step (poly c b : Byte) : Byte := crc8Shifts poly 8 (c ^^^ b)

/-- `crc8(s)` (R90). -/
def crc8 (p : Params) (s : List Byte) : Byte := s.foldl (crc8Step p.crcPoly) p.crcInit

end Sys2Proof.Machine
end

