-- ==== Sys2Proof/Machine/Frame.lean ====
section
/-! DEFINITION. The frame wire format of 30_encoding.md section 1: building a frame, and reading the fields of a byte sequence. -/

namespace Sys2Proof.Machine

/-- `f[i]`. Every index the framing engine uses lies inside the sequence (43_framer.md R164; log 14). -/
def byteAt (f : List Byte) (i : Nat) : Byte := f.getD i 0

/-- `zext_16(hi) * 256 + zext_16(lo)`: big-endian (20_memory.md R48, 30_encoding.md R67). -/
def be16 (hi lo : Byte) : BitVec 16 := hi.zeroExtend 16 * 256 + lo.zeroExtend 16

/-- `DL`, from bytes `[1..3)` (R67). -/
def frameDL (f : List Byte) : BitVec 16 := be16 (byteAt f 1) (byteAt f 2)

/-- `OL` (R67). -/
def frameOL (f : List Byte) : Byte := byteAt f 3

/-- The packet type (R67). -/
def framePT (f : List Byte) : Byte := byteAt f 4

/-- `FL = 7 + DL + OL`, exact (30_encoding.md R68). -/
def frameLength (dl : BitVec 16) (ol : Byte) : Nat := 7 + dl.toNat + ol.toNat

/-- The header CRC covers exactly the four bytes `f[1..5)` and stands at offset 5 (30_encoding.md R66). -/
def headerOk (p : Params) (f : List Byte) : Bool := crc8 p (slice f 1 5) == byteAt f 5

/-- The data CRC covers the `n = DL + OL` bytes from offset 6 and is the byte after them (R68). -/
def dataOk (p : Params) (f : List Byte) (n : Nat) : Bool := crc8 p (slice f 6 (6 + n)) == byteAt f (6 + n)

/-- The packet of a frame: its data, then its optional data (43_framer.md R153). -/
def framePacket (f : List Byte) (dl : BitVec 16) (ol pt : Byte) : Packet where
  packetType := pt
  data := slice f 6 (6 + dl.toNat)
  optionalData := slice f (6 + dl.toNat) (6 + dl.toNat + ol.toNat)

/-- The four header bytes: length-high, length-low, optional-length, packet-type (R66). -/
def headerBytes (k : Packet) : List Byte :=
  [BitVec.ofNat 8 (k.data.length / 256), BitVec.ofNat 8 k.data.length, BitVec.ofNat 8 k.optionalData.length, k.packetType]

/-- The frame that carries a packet (30_encoding.md R65). -/
def frameBytes (p : Params) (k : Packet) : List Byte :=
  [syncByte] ++ headerBytes k ++ [crc8 p (headerBytes k)] ++ k.data ++ k.optionalData ++ [crc8 p (k.data ++ k.optionalData)]

/-- The lengths a frame can declare: 16 bits of data, 8 bits of optional data (R67). -/
def Packet.wf (k : Packet) : Bool := k.data.length < 65536 && k.optionalData.length < 256

/-- The reply frame (30_encoding.md R71, 44_transmit.md R181): `55 00 02 00 05 CD 3E 01 28` under the default CRC.
Its CRC bytes are computed by the block's own CRC8 (R91; log 16). -/
def reply (p : Params) : List Byte := frameBytes p ⟨replyType, replyData, []⟩

/-- Module-ready: `PT = EVENT_TYPE`, `DL >= 1` and `data[0] = READY_CODE` (44_transmit.md R187). -/
def moduleReady (p : Params) (k : Packet) : Bool :=
  k.packetType == p.eventType && k.data.head? == some p.readyCode

/-- The 3-bit tag of an outcome (30_encoding.md R72). -/
def ParseOutcome.tag : ParseOutcome → BitVec 3
  | .bufferEmpty => 0
  | .notSynced => 1
  | .notEnoughBytes => 2
  | .short => 3
  | .packet _ => 4

end Sys2Proof.Machine
end

