-- ==== Sys2Proof/Machine/Transmit.lean ====
section
/-! DEFINITION. The transmit path: the reply frame and the byte sink (44_transmit.md). -/

namespace Sys2Proof.Machine

/-- EMIT_REPLY: all nine bytes of the reply frame (44_transmit.md R180, R181). -/
def State.emitReply (s : State) : State := s.emit (reply s.par)

/-- TXSINK: `TXSNK` accepts the oldest byte of `TXPEND`; nothing happens when there is none (R183). -/
def State.txSink (s : State) : State := { s with txPend := s.txPend.tail }

end Sys2Proof.Machine
end

