-- ==== Sys2Proof/Machine/Framer.lean ====
section
/-! DEFINITION. The framing engine: PARSE as the finite state machine of 43_framer.md R140.
One step is one transition of `FSM`, and at most one queue operation, so a step of `P` may fall between any two
(20_memory.md R52; log 13). -/

namespace Sys2Proof.Machine

/-- `SNAPBUF[0..SNAPCNT)`: what the last snapshot inside PARSE copied (10_state.md R27). -/
def State.snap (s : State) : List Byte := s.snapBuf.take s.snapCnt

/-- A snapshot's bytes put into `SNAPBUF[0..n)`, with `SNAPCNT` their count `n` (43_framer.md R141, R146). -/
def State.loadSnap (s : State) (bs : List Byte) : State :=
  { s with snapBuf := bs ++ s.snapBuf.drop bs.length, snapCnt := bs.length }

/-- PARSE goes to `DONE` with an outcome to return. -/
def State.finishParse (s : State) (o : ParseOutcome) : State := { s with fsm := .done, work.out := o }

/-- One READ inside PARSE; its value is discarded and the port gives no response (43_framer.md R156; log 15). -/
def State.parseRead (s : State) (after : State → State) : State :=
  match s.queueRead with
  | .error f => s.raise f
  | .ok (_, t) => after t

/-- `repeat n times : READ`, `n` in the remaining READ count: one READ a step, then `exit`. -/
def State.parseReads (s : State) (exit : State → State) : State :=
  match s.work.remaining with
  | 0 => exit s
  | n + 1 => s.parseRead fun t => { t with work.remaining := n }

/-- SNAP1, step 1 (43_framer.md R141). -/
def State.stepSnap1 (s : State) : State :=
  match s.snapshot snapMax with
  | .error f => s.raise f
  | .ok bs =>
    let t := { s.loadSnap bs with work.c1 := bs.length }
    if bs.length = 0 then t.finishParse .bufferEmpty else { t with fsm := .scan }

/-- SCAN, step 2: the first sync byte of the snapshot (R143). -/
def State.stepScan (s : State) : State :=
  match s.snap.findIdx? (· == syncByte) with
  | none => { s with fsm := .dropAll, work.k := none, work.remaining := s.work.c1 }
  | some k => { s with fsm := .dropPrefix, work.k := some k, work.remaining := k }

/-- DROP_ALL: no sync byte, every byte of the snapshot is noise (R144). -/
def State.stepDropAll (s : State) : State := s.parseReads fun t => t.finishParse .notSynced

/-- DROP_PREFIX: the `k` bytes before the sync byte (R145). -/
def State.stepDropPrefix (s : State) : State := s.parseReads fun t => { t with fsm := .snap2 }

/-- SNAP2, step 3 (R146). -/
def State.stepSnap2 (s : State) : State :=
  match s.snapshot snapMax with
  | .error f => s.raise f
  | .ok bs =>
    let t := { s.loadSnap bs with work.c2 := bs.length }
    if bs.length < minFrame then t.finishParse .notEnoughBytes else { t with fsm := .hdr }

/-- HDR, step 4: the header CRC (R147, R148). -/
def State.stepHdr (s : State) : State :=
  if headerOk s.par s.snap then { s with fsm := .len } else { s with fsm := .dropOne }

/-- DROP_ONE: the false sync byte (R148). -/
def State.stepDropOne (s : State) : State := s.parseRead fun t => t.finishParse .notSynced

/-- LEN, steps 5 and 6: the lengths, the oversize check, then the `Short` check (R149 to R151). -/
def State.stepLen (s : State) : State :=
  let dl := frameDL s.snap
  let ol := frameOL s.snap
  let fl := frameLength dl ol
  let t := { s with work.dl := dl, work.ol := ol, work.pt := framePT s.snap, work.fl := fl }
  if s.par.maxFrame < fl then { t with fsm := .dropOne }
  else if s.work.c2 < fl then t.finishParse .short
  else { t with fsm := .data }

/-- DATA, step 7: the data CRC (R152). -/
def State.stepData (s : State) : State :=
  if dataOk s.par s.snap (s.work.dl.toNat + s.work.ol.toNat) then
    { s with fsm := .commit, work.remaining := s.work.fl }
  else { s with fsm := .dropOne }

/-- The packet of the frame PARSE has in its snapshot (R153, R155). -/
def State.parsedPacket (s : State) : Packet := framePacket s.snap s.work.dl s.work.ol s.work.pt

/-- COMMIT, step 8: the whole frame is READ, and the packet becomes the outcome (R153). -/
def State.stepCommit (s : State) : State :=
  s.parseReads fun t => { t with fsm := .event, work.out := .packet t.parsedPacket }

/-- EVENT, step 9: the reply frame for a module-ready packet (44_transmit.md R180, R187). -/
def State.stepEvent (s : State) : State :=
  if moduleReady s.par s.parsedPacket then { s.emitReply with fsm := .tx } else { s with fsm := .done }

/-- TX: the wait until the sink has accepted every byte (44_transmit.md R182). -/
def State.stepTx (s : State) : State := if s.txPend = [] then { s with fsm := .done } else s

/-- DONE, step 10: the response (R155). -/
def State.stepDone (s : State) : State := { s.respond .cp (.outcome s.work.out) with fsm := .idle }

/-- One transition of the PARSE in progress (R140); none when there is none. -/
def State.parseStep (s : State) : State :=
  match s.fsm with
  | .idle => s
  | .snap1 => s.stepSnap1
  | .scan => s.stepScan
  | .dropAll => s.stepDropAll
  | .dropPrefix => s.stepDropPrefix
  | .snap2 => s.stepSnap2
  | .hdr => s.stepHdr
  | .dropOne => s.stepDropOne
  | .len => s.stepLen
  | .data => s.stepData
  | .commit => s.stepCommit
  | .event => s.stepEvent
  | .tx => s.stepTx
  | .done => s.stepDone

/-- `PARSE` (R140): the request leaves `IDLE`; `CBUSY` stays 1 until the response of `DONE`. The steps that follow are `parseStep`. -/
def execParse (s : State) : Host.Outcome State Fault Refusal :=
  .next { s with fsm := .snap1, cbusy := true }

end Sys2Proof.Machine
end

