-- ==== Sys2Proof/Machine/Dispatch.lean ====
section
/-! DEFINITION. What each operation does when its request takes effect: one arm per constructor of Instr. -/

namespace Sys2Proof.Machine

/-- The effect of an operation of 30_encoding.md R74. -/
def exec (i : Instr) (s : State) : Host.Outcome State Fault Refusal :=
  match i with
  | .write b => Sys2Proof.Machine.execWrite b s
  | .read => Sys2Proof.Machine.execRead s
  | .peek => Sys2Proof.Machine.execPeek s
  | .snapshot m => Sys2Proof.Machine.execSnapshot m s
  | .iterate => Sys2Proof.Machine.execIterate s
  | .len => Sys2Proof.Machine.execLen s
  | .parse => Sys2Proof.Machine.execParse s

end Sys2Proof.Machine
end

