-- ==== Sys2Proof/Machine/RxAdapter.lean ====
section
/-! DEFINITION. The receive path: RXBYTE and RXSERVICE (42_rx_adapter.md). -/

namespace Sys2Proof.Machine

/-- RXBYTE(b): appended to `RXH`, or lost before it reaches the block (42_rx_adapter.md R130). -/
def State.rxByte (s : State) (b : Byte) : State :=
  if s.rxh.length < s.par.rxDepth then { s with rxh := s.rxh ++ [b] } else s

/-- RXSERVICE is enabled when a byte waits (R131) and `PP` has no request outstanding, since it issues a WRITE there (10_state.md R30; log 8). -/
def State.rxServiceEnabled (s : State) : Bool := s.rxPend && !s.pbusy

/-- RXSERVICE: the oldest received byte leaves `RXH` and is written to the queue, or dropped when that is full (R131, R132). -/
def State.rxService (s : State) : Host.Outcome State Fault Refusal :=
  match s.rxh with
  | [] => .next s
  | b :: rest => execWrite b { s with rxh := rest }

end Sys2Proof.Machine
end

