-- ==== Sys2Proof/Machine/Agents.lean ====
section
/-! DEFINITION. The steps of the four agents, and reset (00_scope.md R7, 60_exceptions.md R204). -/

namespace Sys2Proof.Machine

/-- A driver places a word on a port: accepted only when the port has no request outstanding (10_state.md R30; log 5). -/
def State.placeRequest (s : State) (p : Port) (w : Word) : State := if s.busy p then s else s.accept p w

/-- The outstanding request of a port takes effect, or an illegal word is answered (30_encoding.md R76, R77). -/
def State.serveRequest (s : State) (p : Port) : Host.Outcome State Fault Refusal :=
  match s.request p with
  | none => .next s
  | some w =>
    match decode p w with
    | .ok i => exec i s
    | .error _ => .next (s.respond p .illegal)

/-- A port's agent takes its next step: a PARSE in progress goes on before anything else on `CP` (43_framer.md R140). -/
def State.serve (s : State) (p : Port) : Host.Outcome State Fault Refusal :=
  match p with
  | .pp => s.serveRequest .pp
  | .cp => if s.fsm = .idle then s.serveRequest .cp else .next s.parseStep

/-- Reset: every piece of state at its reset value (70_reset_and_hazards.md R215, R218). The parameters are the block's,
and what the agents do next is not its state. -/
def State.resetAll (s : State) : State := (State.resetWith s.par).withSched s.sched

/-- One event. A step that is not enabled changes nothing (60_exceptions.md R203; log 5). -/
def State.perform (s : State) (e : Event) : Host.Outcome State Fault Refusal :=
  match e with
  | .rx b => .next (s.rxByte b)
  | .rxService => if s.rxServiceEnabled then s.rxService else .next s
  | .request p w => .next (s.placeRequest p w)
  | .serve p => s.serve p
  | .txSink => .next s.txSink
  | .reset => .next s.resetAll

/-- One event on a machine whose `FAULT` may be set: no agent steps then; reset is no agent's step (10_state.md R38; log 10). -/
def State.react (s : State) (e : Event) : Host.Outcome State Fault Refusal :=
  match s.fault with
  | none => s.perform e
  | some f => if e = .reset then .next s.resetAll else .fault f

/-- The next event of the schedule; an empty schedule is a machine whose agents idle (60_exceptions.md R203; log 4). -/
def State.advance (s : State) : Host.Outcome State Fault Refusal :=
  match s.sched with
  | e :: rest => (s.withSched rest).react e
  | [] =>
    match s.fault with
    | none => .next s
    | some f => .fault f

/-- `s` with the word outstanding on its port and that port's agent next to step. On `CP` no PARSE is in progress (log 19). -/
def State.withRequest (s : State) (w : Word) : State :=
  match wordPort w with
  | .pp => { s.accept .pp w with fault := none, sched := .serve .pp :: s.sched }
  | .cp => { s.accept .cp w with fault := none, fsm := .idle, sched := .serve .cp :: s.sched }

end Sys2Proof.Machine
end

