-- ==== Sys2Proof/Machine/Step.lean ====
section
/-! DEFINITION. One step of the machine, and a word of the opcode table placed where the next step takes it. -/

namespace Sys2Proof.Machine

/-- One transition of the block: the next agent's step, as `sched` lists it (20_memory.md R54). -/
def step (s : State) : Host.Outcome State Fault Refusal := s.advance

/-- `s` with that word outstanding on the port its row names, and its agent next to step (log 19). -/
def State.withFetchWord (s : State) (nbits w : Nat) : State :=
  match tableWord nbits w with
  | none => s
  | some v => s.withRequest v

end Sys2Proof.Machine
end

