-- ==== Sys2Proof/Machine/Assembler.lean ====
section
/-! DEFINITION. The spec's assembly syntax and pseudo-instructions (30_encoding.md R79, R80), and the events a line stands for.
Not part of the block: it is how a program is written down (log 20; the text of a line, log 24). -/

namespace Sys2Proof.Machine

/-- One line of assembly (R79), a step line of the programs of 95_test_vectors.md section 3, or a pseudo-instruction (R80). -/
inductive AsmLine where
  /-- `P: …` or `C: …`: the agent issues an operation on its port. -/
  | issue (p : Port) (i : Instr)
  /-- `RX b`: `RXSRC` delivers a byte. -/
  | rx (b : Byte)
  /-- `P: RXSERVICE`. -/
  | rxService
  /-- `TXSINK`. -/
  | txSink
  /-- `C: CONSUME n`: `n` lines `C: READ`. R80 gives `n` no bound and the model puts none: DESIGN CHOICE (log 24). -/
  | consume (n : Nat)
  /-- `P: WRITES b0, b1, …`. -/
  | writes (bs : List Byte)
  /-- `RX b0, b1, …`. -/
  | rxs (bs : List Byte)
deriving DecidableEq, Repr

/-- A line with its pseudo-instruction expanded (R80). -/
def AsmLine.expand : AsmLine → List AsmLine
  | .consume n => List.replicate n (.issue .cp .read)
  | .writes bs => bs.map fun b => .issue .pp (.write b)
  | .rxs bs => bs.map .rx
  | l => [l]

/-- How many steps of the consumer reach a PARSE's response, or its TX wait, for every queue: the start, SNAP1, SCAN, at most
128 of DROP_PREFIX, SNAP2, HDR, LEN, DATA, at most 129 of COMMIT, EVENT and DONE. -/
def parseSteps : Nat := 266

/-- The steps of its agent that carry an operation through. -/
def serveSteps : Instr → Nat
  | .parse => parseSteps
  | _ => 1

/-- The events of a line that is no pseudo-instruction: the request, then its agent's steps (DESIGN CHOICE, log 20).
After a TXSINK the consumer may leave the TX wait and respond. -/
def AsmLine.events : AsmLine → List Event
  | .issue p i => .request p (encode i) :: List.replicate (serveSteps i) (.serve p)
  | .rx b => [.rx b]
  | .rxService => [.rxService]
  | .txSink => [.txSink, .serve .cp, .serve .cp]
  | .consume _ => []
  | .writes _ => []
  | .rxs _ => []

/-- The events of a program, line by line (95_test_vectors.md section 3: lines run in the order written). -/
def assemble (ls : List AsmLine) : List Event := (ls.flatMap AsmLine.expand).flatMap AsmLine.events

/-! ## Reading a line of text -/

/-- A hexadecimal digit's value. -/
def hexDigit (c : Char) : Option Nat :=
  if '0' ≤ c ∧ c ≤ '9' then some (c.toNat - 48)
  else if 'A' ≤ c ∧ c ≤ 'F' then some (c.toNat - 55)
  else if 'a' ≤ c ∧ c ≤ 'f' then some (c.toNat - 87)
  else none

/-- Digits in a base, most significant first; none when a character is no digit of it. -/
def asmDigits (base : Nat) : Nat → List Char → Option Nat
  | acc, [] => some acc
  | acc, c :: cs =>
    match hexDigit c with
    | none => none
    | some d => if d < base then asmDigits base (base * acc + d) cs else none

/-- An operand: decimal, or hexadecimal after `0x` (R79). -/
def asmNumber : List Char → Option Nat
  | [] => none
  | '0' :: 'x' :: c :: cs => asmDigits 16 0 (c :: cs)
  | c :: cs => asmDigits 10 0 (c :: cs)

/-- A byte operand: 0 to 255. -/
def asmByte (w : List Char) : Option Byte :=
  match asmNumber w with
  | none => none
  | some n => if n < 256 then some (BitVec.ofNat 8 n) else none

/-- Byte operands, all of them. -/
def asmBytes : List (List Char) → Option (List Byte)
  | [] => some []
  | w :: ws =>
    match asmByte w, asmBytes ws with
    | some b, some bs => some (b :: bs)
    | _, _ => none

/-- The words of a line: separated by spaces, tabs and commas, up to the comment after `;` (R79; log 24). `cur` is the word being read. -/
def asmWords : List Char → List Char → List (List Char)
  | cur, [] => if cur = [] then [] else [cur]
  | cur, c :: cs =>
    if c = ';' then (if cur = [] then [] else [cur])
    else if c = ' ' ∨ c = '\t' ∨ c = ',' then (if cur = [] then asmWords [] cs else cur :: asmWords [] cs)
    else asmWords (cur ++ [c]) cs

/-- The operation named by a mnemonic and its operands (R79). -/
def asmInstr (name : List Char) (args : List (List Char)) : Option Instr :=
  match args with
  | [] =>
    if name = ['R', 'E', 'A', 'D'] then some .read
    else if name = ['P', 'E', 'E', 'K'] then some .peek
    else if name = ['I', 'T', 'E', 'R', 'A', 'T', 'E'] then some .iterate
    else if name = ['L', 'E', 'N'] then some .len
    else if name = ['P', 'A', 'R', 'S', 'E'] then some .parse
    else none
  | [a] =>
    if name = ['W', 'R', 'I', 'T', 'E'] then (asmByte a).map .write
    else if name = ['S', 'N', 'A', 'P', 'S', 'H', 'O', 'T'] then (asmByte a).map .snapshot
    else none
  | _ => none

/-- What follows `P:` or `C:`. The count of CONSUME is any number, not only a byte: DESIGN CHOICE (log 24). -/
def asmAgentLine (p : Port) (name : List Char) (args : List (List Char)) : Option AsmLine :=
  if p = .pp ∧ name = ['R', 'X', 'S', 'E', 'R', 'V', 'I', 'C', 'E'] ∧ args = [] then some .rxService
  else if p = .pp ∧ name = ['W', 'R', 'I', 'T', 'E', 'S'] ∧ args ≠ [] then (asmBytes args).map .writes
  else if p = .cp ∧ name = ['C', 'O', 'N', 'S', 'U', 'M', 'E'] then
    match args with
    | [a] => (asmNumber a).map .consume
    | _ => none
  else (asmInstr name args).map (.issue p)

/-- One line of assembly text; none when it is not in the syntax of R79 and R80. -/
def asmLine (text : List Char) : Option AsmLine :=
  match asmWords [] text with
  | ['P', ':'] :: name :: args => asmAgentLine .pp name args
  | ['C', ':'] :: name :: args => asmAgentLine .cp name args
  | ['R', 'X'] :: [a] => (asmByte a).map .rx
  | ['R', 'X'] :: a :: b :: bs => (asmBytes (a :: b :: bs)).map .rxs
  | [['T', 'X', 'S', 'I', 'N', 'K']] => some .txSink
  | _ => none

end Sys2Proof.Machine
end

