-- ==== Sys2Proof/WellFormed.lean ====
section
/-! DEFINITION. The checks a block's parameters and a request must pass. -/

namespace Sys2Proof

/-- The bounds on `QUEUE_N` of 00_scope.md R8. `RX_DEPTH` has no bound in the spec (log 22). -/
def Params.wf (p : Params) : Bool := 8 ≤ p.queueN && p.queueN ≤ 65536

/-- A request is well-formed on the port that owns its operation (30_encoding.md R74, R77; 60_exceptions.md R198).
The operand's width is in the syntax, so this is the only check of an instruction. -/
def Instr.wfOn (i : Instr) (p : Port) : Bool := i.port == p

end Sys2Proof
end

