-- ==== Sys2Proof/Safety.lean ====
section
/-! DEFINITION. The terms the claims use: queue contents, what a PARSE should return, the invariant of every
reachable state, final states, and fair runs. -/

namespace Sys2Proof.Machine

/-! ## Queue contents -/

/-- The queue holds exactly the bytes `q`, oldest first (20_memory.md R46). -/
def State.Holds (s : State) (q : List Byte) : Prop := s.elems = q.map some

/-- The queue begins with the bytes `bs`. -/
abbrev State.FrontIs (s : State) (bs : List Byte) : Prop := s.elems.take bs.length = bs.map some

/-! ## What a PARSE should return -/

/-- The outcome of steps 3 to 8 for the second snapshot `f` (43_framer.md R146 to R153), in the order the checks are made. -/
def verdict (p : Params) (f : List Byte) : ParseOutcome :=
  if f.length < minFrame then .notEnoughBytes
  else if headerOk p f = false then .notSynced
  else if p.maxFrame < frameLength (frameDL f) (frameOL f) then .notSynced
  else if f.length < frameLength (frameDL f) (frameOL f) then .short
  else if dataOk p f ((frameDL f).toNat + (frameOL f).toNat) = false then .notSynced
  else .packet (framePacket f (frameDL f) (frameOL f) (framePT f))

/-- The bytes READ from the sync byte on, by outcome (43_framer.md R157): one for a false sync byte, the frame for a packet. -/
def bytesRead : ParseOutcome → Nat
  | .bufferEmpty => 0
  | .notSynced => 1
  | .notEnoughBytes => 0
  | .short => 0
  | .packet k => minFrame + k.data.length + k.optionalData.length

/-- The outcome of a PARSE of a queue holding `q` that no producer step falls into, and how many bytes it READs (R157). -/
def parseResult (p : Params) (q : List Byte) : ParseOutcome × Nat :=
  match q.take snapMax with
  | [] => (.bufferEmpty, 0)
  | b :: s1 =>
    match (b :: s1).findIdx? (· == syncByte) with
    | none => (.notSynced, (b :: s1).length)
    | some k =>
      let o := verdict p ((q.drop k).take snapMax)
      (o, k + bytesRead o)

/-- The contents of a queue holding `q` after `n` PARSEs with no new bytes (R158). -/
def queueAfterParses (p : Params) : Nat → List Byte → List Byte
  | 0, q => q
  | n + 1, q => queueAfterParses p n (q.drop (parseResult p q).2)

/-- The bytes a PARSE with that outcome transmits (44_transmit.md R180, R184). -/
def emitted (p : Params) : ParseOutcome → List Byte
  | .packet k => if moduleReady p k then reply p else []
  | _ => []

/-! ## The invariant -/

/-- The second snapshot is in `SNAPBUF`, long enough, beginning with a sync byte, and still at the front of the queue
(43_framer.md R146, 20_memory.md R57). -/
abbrev State.Snapped (s : State) : Prop :=
  s.work.k.isSome = true ∧ s.work.c2 = s.snapCnt ∧ minFrame ≤ s.snapCnt ∧ s.snap.head? = some syncByte

/-- The working values hold the header's fields, and the frame fits (R149 to R151, R164). -/
abbrev State.Sized (s : State) : Prop :=
  s.Snapped ∧ headerOk s.par s.snap = true ∧ s.work.dl = frameDL s.snap ∧ s.work.ol = frameOL s.snap ∧
    s.work.pt = framePT s.snap ∧ s.work.fl = frameLength s.work.dl s.work.ol ∧
    s.work.fl ≤ s.par.maxFrame ∧ s.work.fl ≤ s.snapCnt

/-- What the working values of a PARSE in progress are worth, state by state (43_framer.md R140). -/
structure ParseInv (s : State) : Prop where
  scan : s.fsm = .scan → s.work.c1 = s.snapCnt ∧ 0 < s.snapCnt ∧ s.FrontIs s.snap
  dropAll : s.fsm = .dropAll → s.work.k = none ∧ 0 < s.snapCnt ∧ syncByte ∉ s.snap ∧
    s.work.remaining ≤ s.snapCnt ∧ s.FrontIs (s.snap.drop (s.snapCnt - s.work.remaining))
  dropPrefix : s.fsm = .dropPrefix → ∃ k < s.snapCnt, s.work.k = some k ∧ s.snap[k]? = some syncByte ∧
    s.work.remaining ≤ k ∧ s.FrontIs (s.snap.drop (k - s.work.remaining))
  snap2 : s.fsm = .snap2 → s.work.k.isSome = true ∧ s.FrontIs [syncByte]
  hdr : s.fsm = .hdr → s.Snapped ∧ s.FrontIs s.snap
  dropOne : s.fsm = .dropOne → s.Snapped ∧ s.FrontIs s.snap ∧ verdict s.par s.snap = .notSynced
  len : s.fsm = .len → s.Snapped ∧ s.FrontIs s.snap ∧ headerOk s.par s.snap = true
  data : s.fsm = .data → s.Sized ∧ s.FrontIs s.snap
  commit : s.fsm = .commit → s.Sized ∧ verdict s.par s.snap = .packet s.parsedPacket ∧
    s.work.remaining ≤ s.work.fl ∧ s.FrontIs ((s.snap.take s.work.fl).drop (s.work.fl - s.work.remaining))
  event : s.fsm = .event → s.Sized ∧ verdict s.par s.snap = .packet s.parsedPacket ∧ s.work.out = .packet s.parsedPacket
  tx : s.fsm = .tx → s.Sized ∧ verdict s.par s.snap = .packet s.parsedPacket ∧ s.work.out = .packet s.parsedPacket ∧
    moduleReady s.par s.parsedPacket = true
  done : s.fsm = .done →
    (s.snapCnt = 0 ∧ s.work.out = .bufferEmpty) ∨
    (0 < s.snapCnt ∧ syncByte ∉ s.snap ∧ s.work.out = .notSynced) ∨
    (s.snap.head? = some syncByte ∧ s.work.out = verdict s.par s.snap)

/-- What holds in every reachable state (10_state.md; the queue's part is R20, R22, R23). -/
structure Inv (s : State) : Prop where
  par_wf : s.par.wf = true
  rd_lt : s.rd < s.par.queueN
  wr_lt : s.wr < s.par.queueN
  cell_wf : Memory.wf s.cell
  cell_lt : ∀ c ∈ s.cell, c.1 < s.par.queueN
  occupied : ∀ i < s.par.queueN, (Memory.read s.cell i).isSome = decide ((i + s.par.queueN - s.rd) % s.par.queueN < s.len)
  snap_length : s.snapBuf.length = snapMax
  snap_count : s.snapCnt ≤ snapMax
  rxh_length : s.rxh.length ≤ s.par.rxDepth
  pp_request : s.pbusy = s.ppReq.isSome
  cp_request : s.cbusy = s.cpReq.isSome
  parsing : s.fsm ≠ .idle → s.cpReq = some (encode .parse)
  no_fault : s.fault = none
  tx_waits : s.fsm ≠ .tx → s.txPend = []
  tx_pending : s.txPend <:+ reply s.par
  tx_log : s.txLog = (List.replicate (s.txLog.length / 9) (reply s.par)).flatten
  parse : ParseInv s

/-! ## The end of a run, and fair runs -/

/-- A final state (60_exceptions.md R206). -/
def State.final (s : State) : Bool :=
  s.fault == none && !s.pbusy && !s.cbusy && s.fsm == .idle && s.rxh == [] && s.txPend == []

/-- `n` steps from `s` with the events `es` next, and nothing after them. -/
def runEvents (s : State) (es : List Event) : Host.Outcome State Fault Refusal :=
  Host.Core.run Sys2Proof.core es.length (s.withSched es)

/-- An endless run: `ev n` is the event of step `n`, and `tr n` the state before it. -/
def IsRun (ev : Nat → Event) (tr : Nat → State) : Prop :=
  ∀ n, step ((tr n).withSched [ev n]) = .next ((tr (n + 1)).withSched [])

/-- The producer's duty: when `RXPEND` holds from some point on, `P` takes an RXSERVICE step (42_rx_adapter.md R137, 60_exceptions.md R204; log 18). -/
def FairProducer (ev : Nat → Event) (tr : Nat → State) : Prop :=
  ∀ n, (∀ m, n ≤ m → (tr m).rxPend = true) → ∃ m, n ≤ m ∧ ev m = .rxService ∧ (tr m).rxServiceEnabled = true

/-- The sink's duty: while bytes wait in `TXPEND`, `TXSNK` eventually accepts one (R204). -/
def FairSink (ev : Nat → Event) (tr : Nat → State) : Prop :=
  ∀ n, (∀ m, n ≤ m → (tr m).txPend ≠ []) → ∃ m, n ≤ m ∧ ev m = .txSink

end Sys2Proof.Machine
end

