-- ==== Sys2Proof/Certificates/Slice0/Obligations.lean ====
section
/-! DEFINITION. The statements for the provers, each a Prop about the machine, with the rule of spec/ it formalises.
An explicit record says a statement's whole frame: every field it does not name is unchanged. -/

open Sys2Proof Sys2Proof.Machine

/-! ## Encodings -/

/-- Decoding what the encoder writes, on the operation's own port, gives the operation back, with every operand value (30_encoding.md R74, R76). -/
def Obligations.DecodeOfEncodeIsTheInstruction : Prop :=
  ∀ i : Instr, decode i.port (encode i) = .ok i

/-- A word that decodes is the encoding of what it decodes to, and stands on that operation's port: no bit is ignored (R76, R77). -/
def Obligations.EncodeOfDecodeIsTheWord : Prop :=
  ∀ (p : Port) (w : Word) (i : Instr), decode p w = .ok i → encode i = w ∧ i.port = p

/-- The decoder accepts exactly the words that match a row of spec/opcode_table.json on the row's port. -/
def Obligations.DecodeAcceptsExactlyTheOpcodeTable : Prop :=
  ∀ (p : Port) (w : Word), (∃ i, decode p w = .ok i) ↔ ∃ r ∈ opcodeTable, r.accepts p w = true

/-- R77: the Illegal words are those with `OP` 0x0 or 0x8 to 0xF, nonzero `RSV`, a nonzero `ARG` where R74 says 0x00,
a consumer operation on `PP`, or WRITE on `CP`, and no others. -/
def Obligations.IllegalWordsAreExactlyThoseNamed : Prop :=
  ∀ (p : Port) (w : Word), (∃ e, decode p w = .error e) ↔
    (opField w = 0 ∨ 8 ≤ (opField w).toNat) ∨ rsvField w ≠ 0 ∨
    (opField w ∈ [0x2, 0x3, 0x5, 0x6, 0x7] ∧ argField w ≠ 0) ∨
    (p = .pp ∧ opField w ∈ [0x2, 0x3, 0x4, 0x5, 0x6, 0x7]) ∨ (p = .cp ∧ opField w = 0x1)

/-- Words written out from R73 and R74 (95_test_vectors.md section 2.2) decode to the operations they stand for. -/
def Obligations.SampleWordsDecode : Prop :=
  decode .pp 0b0001000001000001 = .ok (.write 0x41) ∧ decode .cp 0b0010000000000000 = .ok .read ∧
  decode .cp 0b0011000000000000 = .ok .peek ∧ decode .cp 0b0100000010000000 = .ok (.snapshot 128) ∧
  decode .cp 0b0101000000000000 = .ok .iterate ∧ decode .cp 0b0110000000000000 = .ok .len ∧
  decode .cp 0b0111000000000000 = .ok .parse ∧ decode .cp 0x1041 = .error .wrongPort ∧
  decode .cp 0x2001 = .error .argNotZero ∧ decode .cp 0x2100 = .error .reservedBits ∧
  decode .pp 0x7000 = .error .wrongPort ∧ decode .pp 0x0000 = .error .unknownOp ∧ decode .cp 0x8000 = .error .unknownOp

/-- The frame of a packet, field by field (30_encoding.md R65, R66, R68): the sync byte, the big-endian data length, the
optional length, the packet type, the CRC of the four header bytes, the data, the optional data and the CRC of both. -/
def Obligations.FrameLayoutIsTheWireFormat : Prop :=
  ∀ (p : Params) (k : Packet), k.wf = true →
    let f := frameBytes p k
    let dl := k.data.length
    let ol := k.optionalData.length
    f.length = 7 + dl + ol ∧ f[0]? = some syncByte ∧ (frameDL f).toNat = dl ∧ (frameOL f).toNat = ol ∧ framePT f = k.packetType ∧
    frameLength (frameDL f) (frameOL f) = 7 + dl + ol ∧
    f[5]? = some (crc8 p (slice f 1 5)) ∧ slice f 6 (6 + dl) = k.data ∧ slice f (6 + dl) (6 + dl + ol) = k.optionalData ∧
    f[6 + dl + ol]? = some (crc8 p (slice f 6 (6 + dl + ol)))

/-- R71: the reply frame is `55 00 02 00 05 CD 3E 01 28` under the CRC8 of R90. -/
def Obligations.ReplyFrameIsTheNineBytes : Prop :=
  ∀ p : Params, p.crcPoly = 0x07 → p.crcInit = 0x00 → reply p = [0x55, 0x00, 0x02, 0x00, 0x05, 0xCD, 0x3E, 0x01, 0x28]

/-- R79: the assembly lines are requests of the agent that issues them, with the words the rule shows. -/
def Obligations.AssemblyLinesAreTheirWords : Prop :=
  (AsmLine.issue .pp (.write 0x41)).events = [.request .pp 0x1041, .serve .pp] ∧
  (AsmLine.issue .cp .read).events = [.request .cp 0x2000, .serve .cp] ∧
  (AsmLine.issue .cp .peek).events = [.request .cp 0x3000, .serve .cp] ∧
  (AsmLine.issue .cp (.snapshot 7)).events = [.request .cp 0x4007, .serve .cp] ∧
  (AsmLine.issue .cp .iterate).events = [.request .cp 0x5000, .serve .cp] ∧
  (AsmLine.issue .cp .len).events = [.request .cp 0x6000, .serve .cp] ∧
  (AsmLine.issue .cp .parse).events.take 2 = [.request .cp 0x7000, .serve .cp] ∧
  (AsmLine.rx 0x55).events = [.rx 0x55]

/-! ## The step -/

/-- When a port's agent steps and the outstanding word decodes, the step is the operation's effect on the state without that
event (with no PARSE in progress on `CP`): nothing else is added. -/
def Obligations.StepRunsTheDecodedRequest : Prop :=
  ∀ (s : State) (p : Port) (w : Word) (i : Instr) (rest : List Event), s.fault = none → s.sched = .serve p :: rest →
    (p = .cp → s.fsm = .idle) → s.request p = some w → decode p w = .ok i → step s = exec i { s with sched := rest }

/-- R191: an illegal word is answered `Illegal` when its agent steps, leaves its port ready, and changes nothing else. -/
def Obligations.IllegalWordIsAnsweredAndChangesNothing : Prop :=
  ∀ (s : State) (w : Word) (e : DecodeError) (rest : List Event), s.fault = none →
    (s.sched = .serve .pp :: rest → s.ppReq = some w → decode .pp w = .error e →
      step s = .next { s with sched := rest, ppReq := none, pbusy := false, ppRsp := some .illegal }) ∧
    (s.sched = .serve .cp :: rest → s.fsm = .idle → s.cpReq = some w → decode .cp w = .error e →
      step s = .next { s with sched := rest, cpReq := none, cbusy := false, cpRsp := some .illegal })

/-- R30: a port takes a word when it has no request outstanding and is busy from then on; while it is busy a word placed
on it changes nothing (log 5). -/
def Obligations.PortTakesOneRequestAtATime : Prop :=
  ∀ (s : State) (w : Word) (rest : List Event), s.fault = none →
    (s.sched = .request .pp w :: rest → step s = .next (if s.pbusy then { s with sched := rest }
      else { s with sched := rest, ppReq := some w, pbusy := true, ppRsp := none })) ∧
    (s.sched = .request .cp w :: rest → step s = .next (if s.cbusy then { s with sched := rest }
      else { s with sched := rest, cpReq := some w, cbusy := true, cpRsp := none }))

/-- R38: once `FAULT` is set no agent steps; only a reset moves the machine (log 10). -/
def Obligations.NoAgentStepsAfterFault : Prop :=
  ∀ (s : State) (f : Fault), s.fault = some f → s.sched.head? ≠ some .reset → step s = .fault f

/-- An agent with no enabled step is idle and keeps all state (R203). The model's choices: an empty schedule idles whatever is enabled
(log 4), and a scheduled step that is not enabled is skipped (log 5). -/
def Obligations.IdleAgentsKeepAllState : Prop :=
  ∀ (s : State) (rest : List Event), s.fault = none →
    (s.sched = [] → step s = .next s) ∧
    (s.sched = .serve .pp :: rest → s.ppReq = none → step s = .next { s with sched := rest }) ∧
    (s.sched = .serve .cp :: rest → s.cpReq = none → s.fsm = .idle → step s = .next { s with sched := rest }) ∧
    (s.sched = .rxService :: rest → s.rxh = [] → step s = .next { s with sched := rest }) ∧
    (s.sched = .txSink :: rest → s.txPend = [] → step s = .next { s with sched := rest })

/-! ## The queue's operations -/

/-- R100 and R101: a WRITE on a queue that is not full stores its byte in `CELL[WR]`, advances `WR` and responds `Ok true`; on a
full queue it changes nothing and responds `Ok false`. Every other cell and field is unchanged. -/
def Obligations.WriteAppendsUnlessFull : Prop :=
  ∀ (s : State) (b : Byte), s.wr < s.par.queueN →
    ((s.wr + 1) % s.par.queueN ≠ s.rd → ∃ m, exec (.write b) s = .next { s with
        cell := m, wr := (s.wr + 1) % s.par.queueN,
        ppReq := none, pbusy := false, ppRsp := some (.ok true) } ∧
      ∀ i, Memory.read m i = if i = s.wr then some b else Memory.read s.cell i) ∧
    ((s.wr + 1) % s.par.queueN = s.rd →
      exec (.write b) s = .next { s with ppReq := none, pbusy := false, ppRsp := some (.ok false) })

/-- R103, R104 and R105: a READ returns the byte of `CELL[RD]`, clears that cell and advances `RD`; on an empty queue it responds
`Nothing` and changes nothing. Every other cell and field is unchanged. -/
def Obligations.ReadTakesTheOldestOrNothing : Prop :=
  ∀ s : State, Memory.wf s.cell → s.rd < s.par.queueN →
    (∀ b, s.rd ≠ s.wr → Memory.read s.cell s.rd = some b → ∃ m, exec .read s = .next { s with
        cell := m, rd := (s.rd + 1) % s.par.queueN,
        cpReq := none, cbusy := false, cpRsp := some (.byte b) } ∧
      ∀ i, Memory.read m i = if i = s.rd then none else Memory.read s.cell i) ∧
    (s.rd = s.wr → exec .read s = .next { s with cpReq := none, cbusy := false, cpRsp := some .nothing })

/-- R106 and R107: PEEK responds with the byte of `CELL[RD]`, or with `Nothing` on an empty queue, and changes nothing else. -/
def Obligations.PeekReturnsTheOldestOrNothing : Prop :=
  ∀ s : State, s.rd < s.par.queueN →
    (∀ b, s.rd ≠ s.wr → Memory.read s.cell s.rd = some b →
      exec .peek s = .next { s with cpReq := none, cbusy := false, cpRsp := some (.byte b) }) ∧
    (s.rd = s.wr → exec .peek s = .next { s with cpReq := none, cbusy := false, cpRsp := some .nothing })

/-- R109 and R110: SNAPSHOT responds with the `min(m, LEN)` oldest bytes, oldest first, and changes nothing else. -/
def Obligations.SnapshotCopiesTheOldest : Prop :=
  ∀ (s : State) (q : List Byte) (m : Byte), s.Holds q →
    exec (.snapshot m) s = .next { s with cpReq := none, cbusy := false, cpRsp := some (.bytes (q.take m.toNat)) } ∧
    (q.take m.toNat).length = min m.toNat s.len

/-- R112: ITERATE responds with every buffered byte, oldest first, and changes nothing else. -/
def Obligations.IterateListsEveryByte : Prop :=
  ∀ (s : State) (q : List Byte), s.Holds q →
    exec .iterate s = .next { s with cpReq := none, cbusy := false, cpRsp := some (.bytes q) } ∧ q.length = s.len

/-- R115 and R116: LEN responds `(WR - RD) mod QUEUE_N`, at most `QUEUE_N - 1`, and changes nothing else. -/
def Obligations.LenCountsTheBytes : Prop :=
  ∀ s : State, s.rd < s.par.queueN → s.wr < s.par.queueN →
    ∃ n : Nat, exec .len s = .next { s with cpReq := none, cbusy := false, cpRsp := some (.count n) } ∧
      (n : Int) = ((s.wr : Int) - (s.rd : Int)) % (s.par.queueN : Int) ∧ n ≤ s.par.queueN - 1

/-- R24: `LEN`, `EMPTY` and `FULL` as functions of the cursors, and `FULL` again as `LEN == QUEUE_N - 1`; and their reset values. -/
def Obligations.StatusIsAFunctionOfTheCursors : Prop :=
  (∀ s : State, s.rd < s.par.queueN → s.wr < s.par.queueN →
    (s.len : Int) = ((s.wr : Int) - (s.rd : Int)) % (s.par.queueN : Int) ∧ s.len < s.par.queueN ∧
    (s.empty = true ↔ s.rd = s.wr) ∧ (s.empty = true ↔ s.len = 0) ∧
    (s.full = true ↔ (s.wr + 1) % s.par.queueN = s.rd) ∧ (s.full = true ↔ s.len = s.par.queueN - 1)) ∧
  ∀ p : Params, p.wf = true → (State.resetWith p).len = 0 ∧ (State.resetWith p).empty = true ∧ (State.resetWith p).full = false

/-- R53: PEEK, SNAPSHOT, ITERATE and LEN change no state but the port's, and the same operation issued again with no WRITE or READ
between returns the same value. -/
def Obligations.ReadOnlyOperationsRepeat : Prop :=
  ∀ (s t : State) (i : Instr) (m : Byte) (w : Word), i ∈ [.peek, .snapshot m, .iterate, .len] → exec i s = .next t → t.fault = none →
    t = { s with cpReq := none, cbusy := false, cpRsp := t.cpRsp } ∧ exec i (t.accept .cp w) = .next t

/-- R47: a READ or PEEK whose cell holds `⊥` raises `UninitRead` of that cell: `FAULT` records it, no response is given and
nothing else changes (log 9). -/
def Obligations.ReadOfUninitializedCellRaises : Prop :=
  ∀ s : State, s.rd < s.par.queueN → s.rd ≠ s.wr → Memory.read s.cell s.rd = none →
    exec .read s = .next { s with fault := some (.uninitRead s.rd) } ∧
    exec .peek s = .next { s with fault := some (.uninitRead s.rd) }

/-- R47, for the copying operations: SNAPSHOT and ITERATE raise `UninitRead` of the first cell they read that holds `⊥`. -/
def Obligations.CopyOfUninitializedCellRaises : Prop :=
  ∀ (s : State) (j : Nat), j < s.len → Memory.read s.cell (s.elemCell j) = none →
    (∀ i < j, (Memory.read s.cell (s.elemCell i)).isSome = true) →
    exec .iterate s = .next { s with fault := some (.uninitRead (s.elemCell j)) } ∧
    ∀ m : Byte, j < m.toNat → exec (.snapshot m) s = .next { s with fault := some (.uninitRead (s.elemCell j)) }

/-- R46 and R117: WRITE appends at the end of the contents and READ takes from their front, whatever the cursors and the wrap. -/
def Obligations.WriteAppendsAndReadTakesTheOldest : Prop :=
  ∀ (s : State) (q : List Byte) (b : Byte), s.rd < s.par.queueN → s.wr < s.par.queueN →
    (s.Holds q → s.full = false → ∃ t, exec (.write b) s = .next t ∧ t.ppRsp = some (.ok true) ∧ t.Holds (q ++ [b])) ∧
    (s.Holds (b :: q) → ∃ t, exec .read s = .next t ∧ t.cpRsp = some (.byte b) ∧ t.Holds q)

/-- R117: the READ that removes the byte a WRITE appended returns that byte: on a queue holding `q` that is not full, after the WRITE
and `q.length` READs, the next READ (for an empty queue, the very next) responds with it. Each request's agent steps right after it. -/
def Obligations.WrittenByteIsReadBack : Prop :=
  ∀ (s : State) (q : List Byte) (b : Byte), Inv s → s.pbusy = false → s.cbusy = false → s.Holds q → s.full = false →
    ∃ t, runEvents s ([.request .pp (encode (.write b)), .serve .pp] ++
        (List.replicate (q.length + 1) [Event.request .cp (encode .read), .serve .cp]).flatten) = .next t ∧
      t.ppRsp = some (.ok true) ∧ t.cpRsp = some (.byte b) ∧ t.Holds []

/-- R119: the queue holds at most `QUEUE_N - 1` bytes and is full exactly when it holds that many. -/
def Obligations.CapacityIsOneCellLess : Prop :=
  ∀ (s : State) (q : List Byte), Inv s → s.Holds q →
    q.length ≤ s.par.queueN - 1 ∧ (s.full = true ↔ q.length = s.par.queueN - 1)

/-! ## Receive path and transmit path -/

/-- R130: RXBYTE appends the byte to `RXH`, or loses it when `RXH` is full; nothing else changes. -/
def Obligations.ReceivedByteIsHeldOrLost : Prop :=
  ∀ (s : State) (b : Byte) (rest : List Event), s.fault = none → s.sched = .rx b :: rest →
    step s = .next (if s.rxh.length < s.par.rxDepth then { s with sched := rest, rxh := s.rxh ++ [b] } else { s with sched := rest })

/-- R131 and R132: RXSERVICE moves the oldest byte of `RXH` to the end of the queue, in `CELL[WR]`, or drops it when the queue is full;
every other cell and field is unchanged. That it needs `PP` ready and answers there is log 8, and that it is skipped while `PP` is busy log 5. -/
def Obligations.RxServiceMovesOrDropsOneByte : Prop :=
  ∀ (s : State) (b : Byte) (r q : List Byte) (rest : List Event), s.fault = none → s.sched = .rxService :: rest →
    s.rxh = b :: r → s.rd < s.par.queueN → s.wr < s.par.queueN → s.Holds q →
    (s.pbusy = true → step s = .next { s with sched := rest }) ∧
    (s.pbusy = false → s.full = true →
      step s = .next { s with sched := rest, rxh := r, ppReq := none, ppRsp := some (.ok false) }) ∧
    (s.pbusy = false → s.full = false → ∃ t, step s = .next t ∧ t.Holds (q ++ [b]) ∧
      (∀ i, Memory.read t.cell i = if i = s.wr then some b else Memory.read s.cell i) ∧
      t = { s with sched := rest, rxh := r, ppReq := none, ppRsp := some (.ok true), wr := (s.wr + 1) % s.par.queueN, cell := t.cell })

/-- R133: a drain enters the received bytes in the order they were delivered, until `RXH` is empty. -/
def Obligations.DrainKeepsArrivalOrder : Prop :=
  ∀ (s : State) (q : List Byte), Inv s → s.pbusy = false → s.Holds q → q.length + s.rxh.length ≤ s.par.queueN - 1 →
    ∃ t, runEvents s (List.replicate s.rxh.length .rxService) = .next t ∧ t.rxh = [] ∧ t.rxPend = false ∧ t.Holds (q ++ s.rxh)

/-- TXSINK removes the oldest byte of `TXPEND` and changes nothing else (R183). A scheduled TXSINK with none to remove is skipped: the
rule says it is not enabled, and that the schedule then goes on is the model's choice (log 5). -/
def Obligations.SinkAcceptsTheOldestByte : Prop :=
  ∀ (s : State) (rest : List Event), s.fault = none → s.sched = .txSink :: rest →
    (∀ b r, s.txPend = b :: r → step s = .next { s with sched := rest, txPend := r }) ∧
    (s.txPend = [] → step s = .next { s with sched := rest })

/-! ## The checksum unit -/

/-- R92, R96, and the byte-serial form of R95: the CRC of the empty sequence is `CRC_INIT`; it may be computed one byte a step, a step depending only on the
exclusive or of its inputs; and with the defaults (R90) the check value of "123456789" is `0xF4`. -/
def Obligations.CrcIsByteSerialWithItsCheckValue : Prop :=
  ∀ (p : Params) (s : List Byte) (b c : Byte), crc8 p [] = p.crcInit ∧ crc8 p (s ++ [b]) = crc8Step p.crcPoly (crc8 p s) b ∧
    crc8Step p.crcPoly c b = crc8Step p.crcPoly 0 (c ^^^ b) ∧
    (p.crcPoly = 0x07 → p.crcInit = 0x00 → crc8 p [0x31, 0x32, 0x33, 0x34, 0x35, 0x36, 0x37, 0x38, 0x39] = 0xF4)

/-- R94: changing exactly one byte always changes the CRC (with the default polynomial, R90); and the CRC is not the identity. -/
def Obligations.CrcDetectsEverySingleByteChange : Prop :=
  (∀ (p : Params) (u v : List Byte) (a b : Byte), p.crcPoly = 0x07 → a ≠ b → crc8 p (u ++ a :: v) ≠ crc8 p (u ++ b :: v)) ∧
  crc8 .default [0x01] = 0x07

/-! ## PARSE, transition by transition -/

/-- R140: a PARSE request leaves `IDLE` for SNAP1 with `CBUSY` 1; nothing else changes, and no response is given. -/
def Obligations.ParseRequestStartsTheEngine : Prop :=
  ∀ s : State, exec .parse s = .next { s with fsm := .snap1, cbusy := true }

/-- SNAP1 copies up to 128 bytes into `SNAPBUF[0..c1)` with `SNAPCNT` their count (R141); with none the outcome is `BufferEmpty`. The rest
of `SNAPBUF` and every other working value is unchanged. That this is one step is log 13. -/
def Obligations.FirstSnapshotCopiesUpTo128Bytes : Prop :=
  ∀ (s : State) (q : List Byte) (rest : List Event), s.fault = none → s.sched = .serve .cp :: rest → s.fsm = .snap1 → s.Holds q →
    ∃ t, step s = .next t ∧ t.snap = q.take 128 ∧ t.snapCnt = min 128 q.length ∧
      t = { s with
          sched := rest, snapBuf := q.take 128 ++ s.snapBuf.drop (min 128 q.length), snapCnt := min 128 q.length,
          fsm := if q = [] then .done else .scan,
          work := { s.work with c1 := min 128 q.length, out := if q = [] then .bufferEmpty else s.work.out } }

/-- R143 to R145: SCAN takes the first sync byte of the snapshot, or none, and so how many bytes will be READ. -/
def Obligations.ScanTakesTheFirstSyncByte : Prop :=
  ∀ (s : State) (rest : List Event), s.fault = none → s.sched = .serve .cp :: rest → s.fsm = .scan →
    (syncByte ∉ s.snap → step s = .next { s with sched := rest, fsm := .dropAll, work := { s.work with k := none, remaining := s.work.c1 } }) ∧
    (∀ k, s.snap[k]? = some syncByte → (∀ j < k, s.snap[j]? ≠ some syncByte) →
      step s = .next { s with sched := rest, fsm := .dropPrefix, work := { s.work with k := some k, remaining := k } })

/-- R144, R145, R153: each step of a repeated READ removes the oldest byte, or, when none is left to READ, ends the repetition
(`NotSynced` after DROP_ALL, SNAP2 after DROP_PREFIX, the packet after COMMIT). -/
def Obligations.ParseReadsOneByteAStep : Prop :=
  ∀ (s : State) (n : Nat) (b : Byte) (q : List Byte) (rest : List Event), s.fault = none → s.sched = .serve .cp :: rest →
    s.rd < s.par.queueN → s.wr < s.par.queueN →
    (s.fsm = .dropAll ∨ s.fsm = .dropPrefix ∨ s.fsm = .commit → s.work.remaining = n + 1 → s.Holds (b :: q) →
      ∃ t, step s = .next t ∧ t.Holds q ∧ t = { s with
          sched := rest, cell := t.cell, rd := (s.rd + 1) % s.par.queueN,
          work := { s.work with remaining := n } }) ∧
    (s.fsm = .dropAll → s.work.remaining = 0 →
      step s = .next { s with sched := rest, fsm := .done, work := { s.work with out := .notSynced } }) ∧
    (s.fsm = .dropPrefix → s.work.remaining = 0 → step s = .next { s with sched := rest, fsm := .snap2 }) ∧
    (s.fsm = .commit → s.work.remaining = 0 →
      step s = .next { s with sched := rest, fsm := .event, work := { s.work with out := .packet s.parsedPacket } })

/-- R146: SNAP2 copies up to 128 bytes again; with fewer than 7 the outcome is `NotEnoughBytes`, and nothing is consumed. -/
def Obligations.SecondSnapshotNeedsSevenBytes : Prop :=
  ∀ (s : State) (q : List Byte) (rest : List Event), s.fault = none → s.sched = .serve .cp :: rest → s.fsm = .snap2 → s.Holds q →
    ∃ t, step s = .next t ∧ t.snap = q.take 128 ∧ t.snapCnt = min 128 q.length ∧ t.work.c2 = t.snapCnt ∧
      (if q.length < 7 then t.fsm = .done ∧ t.work.out = .notEnoughBytes else t.fsm = .hdr) ∧
      t = { s with sched := rest, snapBuf := t.snapBuf, snapCnt := t.snapCnt, fsm := t.fsm, work := t.work }

/-- R147, R148: HDR compares the CRC of `s2[1..5)` with `s2[5]`; a mismatch goes to DROP_ONE, which READs exactly one byte and
returns `NotSynced`. -/
def Obligations.HeaderMismatchDropsOneByte : Prop :=
  ∀ (s : State) (b : Byte) (q : List Byte) (rest : List Event), s.fault = none → s.sched = .serve .cp :: rest →
    s.rd < s.par.queueN → s.wr < s.par.queueN →
    (s.fsm = .hdr → step s = .next { s with
        sched := rest,
        fsm := if crc8 s.par (slice s.snap 1 5) = s.snap.getD 5 0 then .len else .dropOne }) ∧
    (s.fsm = .dropOne → s.Holds (b :: q) → ∃ t, step s = .next t ∧ t.Holds q ∧ t.fsm = .done ∧ t.work.out = .notSynced ∧
      t = { s with sched := rest, cell := t.cell, rd := (s.rd + 1) % s.par.queueN, fsm := .done, work := { s.work with out := .notSynced } })

/-- R149, R150, R151: LEN decodes `DL`, `OL` and `PT`, computes `FL = 7 + DL + OL` exactly, drops an oversize frame and
returns `Short` for one that is not all there. -/
def Obligations.LengthsDecideOversizeAndShort : Prop :=
  ∀ (s : State) (rest : List Event), s.fault = none → s.sched = .serve .cp :: rest → s.fsm = .len →
    let dl := (byteAt s.snap 1).toNat * 256 + (byteAt s.snap 2).toNat
    let ol := (byteAt s.snap 3).toNat
    let fl := 7 + dl + ol
    ∃ t, step s = .next t ∧ t.work.dl.toNat = dl ∧ t.work.ol.toNat = ol ∧ t.work.pt = byteAt s.snap 4 ∧ t.work.fl = fl ∧
      (if min 128 (s.par.queueN - 1) < fl then t.fsm = .dropOne
       else if s.work.c2 < fl then t.fsm = .done ∧ t.work.out = .short else t.fsm = .data) ∧
      t = { s with sched := rest, fsm := t.fsm, work := t.work }

/-- R152: DATA compares the CRC of the `DL + OL` bytes from offset 6 with the byte after them; a mismatch is a false sync. -/
def Obligations.DataMismatchIsAFalseSync : Prop :=
  ∀ (s : State) (rest : List Event), s.fault = none → s.sched = .serve .cp :: rest → s.fsm = .data →
    let n := s.work.dl.toNat + s.work.ol.toNat
    step s = .next (if crc8 s.par (slice s.snap 6 (6 + n)) = s.snap.getD (6 + n) 0 then
      { s with sched := rest, fsm := .commit, work := { s.work with remaining := s.work.fl } }
      else { s with sched := rest, fsm := .dropOne })

/-- R180 and R187: EVENT emits all nine reply bytes exactly when the packet is module-ready, and then waits in `TX`. -/
def Obligations.ModuleReadyEmitsTheReply : Prop :=
  ∀ (s : State) (rest : List Event), s.fault = none → s.sched = .serve .cp :: rest → s.fsm = .event →
    let k := s.parsedPacket
    step s = .next (if k.packetType = s.par.eventType ∧ 1 ≤ k.data.length ∧ k.data[0]? = some s.par.readyCode then
      { s with sched := rest, fsm := .tx, txPend := s.txPend ++ reply s.par, txLog := s.txLog ++ reply s.par }
      else { s with sched := rest, fsm := .done })

/-- R182 and R140: in `TX` the engine makes no transition until `TXPEND` is empty, then goes to `DONE`; there the outcome is the
response, `CBUSY` goes to 0 and the engine to `IDLE`. -/
def Obligations.TxWaitsForTheSinkThenDoneResponds : Prop :=
  ∀ (s : State) (rest : List Event), s.fault = none → s.sched = .serve .cp :: rest →
    (s.fsm = .tx → step s = .next (if s.txPend = [] then { s with sched := rest, fsm := .done } else { s with sched := rest })) ∧
    (s.fsm = .done → step s = .next { s with
        sched := rest, fsm := .idle, cpReq := none, cbusy := false,
        cpRsp := some (.outcome s.work.out) })

/-! ## PARSE as a whole -/

/-- An accepted PARSE that no producer step falls into, with a sink that then takes what is emitted, responds with the outcome of
`parseResult`, READs exactly its bytes, emits exactly the reply it calls for, and leaves the rest of the block alone
(R140, R157, R180). 266 steps of the engine reach the response or the TX wait for every queue (R231; the count is the model's). -/
def Obligations.ParseComputesTheParseResult : Prop :=
  ∀ (s : State) (q : List Byte), Inv s → s.fsm = .idle → s.cpReq = some (encode .parse) → s.Holds q →
    ∃ t, runEvents s (List.replicate 266 (.serve .cp) ++ List.replicate 9 .txSink ++ List.replicate 2 (.serve .cp)) = .next t ∧
      t.cpRsp = some (.outcome (parseResult s.par q).1) ∧ t.Holds (q.drop (parseResult s.par q).2) ∧
      t.txLog = s.txLog ++ emitted s.par (parseResult s.par q).1 ∧
      t = { s with
          sched := [], rd := t.rd, cell := t.cell, snapBuf := t.snapBuf, snapCnt := t.snapCnt, work := t.work,
          cpReq := none, cbusy := false, cpRsp := t.cpRsp, txLog := t.txLog }

/-- A PARSE returns a packet exactly when the queue is at most 127 noise bytes without a sync byte, then that packet's frame, with
both CRCs right and no longer than `MAX_FRAME`, then anything (R143, R153, R160): nothing else is accepted, and no such frame is missed. -/
def Obligations.PacketExactlyForAValidFrame : Prop :=
  ∀ (p : Params) (q : List Byte) (k : Packet) (n : Nat), parseResult p q = (.packet k, n) ↔
    ∃ noise rest, q = noise ++ frameBytes p k ++ rest ∧ syncByte ∉ noise ∧ noise.length < 128 ∧
      7 + k.data.length + k.optionalData.length ≤ p.maxFrame ∧
      n = noise.length + (7 + k.data.length + k.optionalData.length)

/-- R158: a PARSE that READs nothing returns `BufferEmpty` on an empty queue, or `NotEnoughBytes` or `Short` with the queue not full;
and with no new bytes arriving, at most `LEN` PARSEs that consume come before one that READs nothing. -/
def Obligations.ParseMakesProgressOrWaits : Prop :=
  ∀ (p : Params) (q : List Byte), p.wf = true → q.length ≤ p.queueN - 1 →
    ((parseResult p q).2 = 0 → (q = [] ∧ (parseResult p q).1 = .bufferEmpty) ∨
      (((parseResult p q).1 = .notEnoughBytes ∨ (parseResult p q).1 = .short) ∧ q.length < p.queueN - 1)) ∧
    ∃ n ≤ q.length, (parseResult p (queueAfterParses p n q)).2 = 0

/-- R157, R231: a PARSE READs no more than the queue holds, and at most 255 bytes; and the payload of a packet fits `PAYLOAD_CAP` (R29, R13). -/
def Obligations.ParseReadsAndPayloadsAreBounded : Prop :=
  ∀ (p : Params) (q : List Byte), (parseResult p q).2 ≤ q.length ∧ (parseResult p q).2 ≤ 255 ∧
    ∀ k, (parseResult p q).1 = .packet k → k.data.length + k.optionalData.length ≤ payloadCap

/-- R156: the READs of a PARSE return the snapshot bytes at their positions: the `j`-th READ after SNAP1 returns `s1[j]`, and the
`j`-th after SNAP2 returns `s2[j]`. -/
def Obligations.ParseReadsWhatItSnapshotted : Prop :=
  ∀ (s : State) (n : Nat), Inv s →
    (s.fsm = .dropAll → s.work.remaining = n + 1 → ∃ b, s.snap[s.snapCnt - (n + 1)]? = some b ∧ s.queueRead = .ok (some b, s.dropFront)) ∧
    (∀ k, s.fsm = .dropPrefix → s.work.k = some k → s.work.remaining = n + 1 →
      ∃ b, s.snap[k - (n + 1)]? = some b ∧ s.queueRead = .ok (some b, s.dropFront)) ∧
    (s.fsm = .dropOne → ∃ b, s.snap[0]? = some b ∧ s.queueRead = .ok (some b, s.dropFront)) ∧
    (s.fsm = .commit → s.work.remaining = n + 1 →
      ∃ b, s.snap[s.work.fl - (n + 1)]? = some b ∧ s.queueRead = .ok (some b, s.dropFront))

/-- R161: PARSE keeps nothing from one invocation to the next: two states with no PARSE in progress that differ only in the
engine's registers stay equal in everything else, whatever happens. -/
def Obligations.EngineRegistersNeverLeak : Prop :=
  ∀ (s t : State) (buf : List Byte) (cnt : Nat) (regs : ParseRegs) (es : List Event), s.fsm = .idle →
    runEvents s es = .next t →
    ∃ t', runEvents { s with snapBuf := buf, snapCnt := cnt, work := regs } es = .next t' ∧
      { t' with snapBuf := t.snapBuf, snapCnt := t.snapCnt, work := t.work } = t

/-- The TX wait ends as soon as the sink has taken the waiting bytes (R182, R185): two more steps of `C` then give the `Packet` response.
That it takes two steps is the model's count (log 13). -/
def Obligations.TxWaitEndsWhenTheSinkAccepts : Prop :=
  ∀ s : State, Inv s → s.fsm = .tx →
    ∃ t, runEvents s (List.replicate s.txPend.length .txSink ++ List.replicate 2 (.serve .cp)) = .next t ∧
      t.fsm = .idle ∧ t.txPend = [] ∧ t.cbusy = false ∧ t.cpRsp = some (.outcome (.packet s.parsedPacket)) ∧ t.txLog = s.txLog

/-! ## Whole-machine rules -/

/-- R215: a reset is one transition, after which every piece of state has the value 10_state.md gives it; so has the machine right
after reset. The values the spec leaves unspecified (SNAPBUF, SNAPCNT, the working values) are not mentioned. -/
def Obligations.ResetValues : Prop :=
  let atReset := fun t : State =>
    t.rd = 0 ∧ t.wr = 0 ∧ (∀ i, Memory.read t.cell i = none) ∧ t.fsm = .idle ∧ t.pbusy = false ∧ t.cbusy = false ∧
    t.rxh = [] ∧ t.txPend = [] ∧ t.txLog = [] ∧ t.fault = none ∧ t.len = 0 ∧ t.empty = true ∧ t.full = false
  atReset State.reset ∧
  ∀ (s : State) (rest : List Event), s.par.wf = true → s.fault = none → s.sched = .reset :: rest → ∃ t, step s = .next t ∧ atReset t

/-- R218: a reset abandons whatever is in progress: ports ready with no response, everything queued and pending lost, the history
cleared; it comes in any state, a faulted one included (log 10), and the block's parameters stay. -/
def Obligations.ResetAbandonsEverything : Prop :=
  ∀ (s : State) (rest : List Event), s.sched = .reset :: rest →
    step s = .next { State.resetWith s.par with sched := rest }

/-- The machine right after reset satisfies the invariant, whatever its parameters (basis: R215). -/
def Obligations.ResetSatisfiesTheInvariant : Prop :=
  ∀ p : Params, p.wf = true → Inv (State.resetWith p)

/-- Every step keeps the invariant: cursors in range, a cell occupied exactly when it is in the window (R23), busy bits and
requests in step, `TXPEND` empty outside the TX wait and a tail of one reply, the history a sequence of whole replies (R181, R182),
and in every state of the engine its snapshot at the front of the queue and its working values right (R146, R156, R164). -/
def Obligations.EveryStepKeepsTheInvariant : Prop :=
  ∀ s t : State, Inv s → step s = .next t → Inv t

/-- R118, R190: in a state that satisfies the invariant no step faults or is refused, and none raises `UninitRead`. -/
def Obligations.NoStepFaultsUnderTheInvariant : Prop :=
  ∀ s : State, Inv s → ∃ t, step s = .next t ∧ t.fault = none

/-- R20, R21: only the consumer's steps move `RD`, only the producer's move `WR`, by one position at most, and the parameters never change. -/
def Obligations.EachCursorHasOneOwner : Prop :=
  ∀ (s t : State) (e : Event) (rest : List Event), s.sched = e :: rest → step s = .next t → e ≠ .reset →
    (t.rd = s.rd ∨ (e = .serve .cp ∧ t.rd = (s.rd + 1) % s.par.queueN)) ∧
    (t.wr = s.wr ∨ ((e = .serve .pp ∨ e = .rxService) ∧ t.wr = (s.wr + 1) % s.par.queueN)) ∧ t.par = s.par

/-- R55: every step leaves the contents alone, appends one byte at their end (a step of the producer), or takes their oldest byte
(a step of the consumer); so bytes leave in the order they came. -/
def Obligations.ContentsAreFirstInFirstOut : Prop :=
  ∀ (s t : State) (q : List Byte) (e : Event) (rest : List Event), Inv s → s.Holds q → s.sched = e :: rest → step s = .next t →
    t.Holds q ∨ (∃ b, t.Holds (q ++ [b]) ∧ (e = .serve .pp ∨ e = .rxService)) ∨
    (∃ b q', q = b :: q' ∧ t.Holds q' ∧ e = .serve .cp) ∨ (t.Holds [] ∧ e = .reset)

/-- R57: whatever the producer and the environment do, the bytes in the queue stay at its front, unchanged and in order, until the
consumer steps. -/
def Obligations.QueuedBytesStayInFront : Prop :=
  ∀ (s : State) (q : List Byte) (es : List Event), Inv s → s.Holds q → Event.serve .cp ∉ es → Event.reset ∉ es →
    ∃ t more, runEvents s es = .next t ∧ t.Holds (q ++ more)

/-- R184: nothing reaches the transmit path but the reply frame of a module-ready packet in `EVENT`: every other step leaves `TXLOG`
and only removes from the head of `TXPEND`. -/
def Obligations.OnlyModuleReadyTransmits : Prop :=
  ∀ (s t : State) (e : Event) (rest : List Event), s.sched = e :: rest → step s = .next t → e ≠ .reset →
    (t.txLog = s.txLog ∧ t.txPend <:+ s.txPend) ∨
    (e = .serve .cp ∧ s.fsm = .event ∧ moduleReady s.par s.parsedPacket = true ∧
      t.txLog = s.txLog ++ reply s.par ∧ t.txPend = s.txPend ++ reply s.par)

/-- Under the sink's duty (R204) `TXPEND` is empty again and again: no PARSE waits in `TX` for ever (R226). -/
def Obligations.FairSinkEmptiesTxPend : Prop :=
  ∀ (ev : Nat → Event) (tr : Nat → State), IsRun ev tr → FairSink ev tr → Inv (tr 0) → ∀ n, ∃ m, n ≤ m ∧ (tr m).txPend = []

/-- Under the producer's duty (R137, R204), once no more bytes are delivered every byte in `RXH` is taken. -/
def Obligations.FairProducerDrainsRxh : Prop :=
  ∀ (ev : Nat → Event) (tr : Nat → State) (n : Nat), IsRun ev tr → FairProducer ev tr → Inv (tr 0) →
    (∀ m b, n ≤ m → ev m ≠ .rx b) → ∃ m, n ≤ m ∧ (tr m).rxh = []
end

