-- ==== Sys2Proof/Laws/Decode.lean ====
section
/-! SUPPORT. The three fields of a command word: what the encoder puts in each, and that they are the whole word. -/

namespace Sys2Proof

theorem commandWord_toNat (op : BitVec 4) (arg : Byte) : (commandWord op arg).toNat = op.toNat * 4096 + arg.toNat := by
  have := op.isLt
  have := arg.isLt
  simp only [commandWord, BitVec.toNat_append]
  rw [← Nat.shiftLeft_add_eq_or_of_lt (by omega), ← Nat.shiftLeft_add_eq_or_of_lt (by decide)]
  simp [Nat.shiftLeft_eq]
  omega

theorem opField_toNat (w : Word) : (opField w).toNat = w.toNat / 4096 := by
  have := w.isLt
  simp [opField, BitVec.extractLsb'_toNat, Nat.shiftRight_eq_div_pow]
  omega

theorem rsvField_toNat (w : Word) : (rsvField w).toNat = w.toNat / 256 % 16 := by
  simp [rsvField, BitVec.extractLsb'_toNat, Nat.shiftRight_eq_div_pow]

theorem argField_toNat (w : Word) : (argField w).toNat = w.toNat % 256 := by
  simp [argField, BitVec.extractLsb'_toNat]

theorem opField_commandWord (op : BitVec 4) (arg : Byte) : opField (commandWord op arg) = op := by
  apply BitVec.eq_of_toNat_eq
  have := arg.isLt
  rw [opField_toNat, commandWord_toNat]
  omega

theorem rsvField_commandWord (op : BitVec 4) (arg : Byte) : rsvField (commandWord op arg) = 0 := by
  apply BitVec.eq_of_toNat_eq
  have := arg.isLt
  rw [rsvField_toNat, commandWord_toNat]
  simp
  omega

theorem argField_commandWord (op : BitVec 4) (arg : Byte) : argField (commandWord op arg) = arg := by
  apply BitVec.eq_of_toNat_eq
  have := arg.isLt
  rw [argField_toNat, commandWord_toNat]
  omega

/-- A word whose reserved bits are 0 is the word of its other two fields. -/
theorem commandWord_of_fields {w : Word} (h : rsvField w = 0) : commandWord (opField w) (argField w) = w := by
  apply BitVec.eq_of_toNat_eq
  have hr := congrArg BitVec.toNat h
  have := w.isLt
  rw [rsvField_toNat] at hr
  rw [commandWord_toNat, opField_toNat, argField_toNat]
  simp at hr
  omega

end Sys2Proof
end

