-- ==== Sys2Proof/Laws/State.lean ====
section
/-! SUPPORT. What every named update of State does to each field, one lemma a field, so that no proof unfolds a record update. -/

namespace Sys2Proof.Machine

/-! ### `raise` -/

@[simp] theorem State.raise_par (s : State) (f : Fault) : (s.raise f).par = s.par := rfl
@[simp] theorem State.raise_rd (s : State) (f : Fault) : (s.raise f).rd = s.rd := rfl
@[simp] theorem State.raise_wr (s : State) (f : Fault) : (s.raise f).wr = s.wr := rfl
@[simp] theorem State.raise_cell (s : State) (f : Fault) : (s.raise f).cell = s.cell := rfl
@[simp] theorem State.raise_snapBuf (s : State) (f : Fault) : (s.raise f).snapBuf = s.snapBuf := rfl
@[simp] theorem State.raise_snapCnt (s : State) (f : Fault) : (s.raise f).snapCnt = s.snapCnt := rfl
@[simp] theorem State.raise_fsm (s : State) (f : Fault) : (s.raise f).fsm = s.fsm := rfl
@[simp] theorem State.raise_work (s : State) (f : Fault) : (s.raise f).work = s.work := rfl
@[simp] theorem State.raise_pbusy (s : State) (f : Fault) : (s.raise f).pbusy = s.pbusy := rfl
@[simp] theorem State.raise_cbusy (s : State) (f : Fault) : (s.raise f).cbusy = s.cbusy := rfl
@[simp] theorem State.raise_ppReq (s : State) (f : Fault) : (s.raise f).ppReq = s.ppReq := rfl
@[simp] theorem State.raise_cpReq (s : State) (f : Fault) : (s.raise f).cpReq = s.cpReq := rfl
@[simp] theorem State.raise_ppRsp (s : State) (f : Fault) : (s.raise f).ppRsp = s.ppRsp := rfl
@[simp] theorem State.raise_cpRsp (s : State) (f : Fault) : (s.raise f).cpRsp = s.cpRsp := rfl
@[simp] theorem State.raise_rxh (s : State) (f : Fault) : (s.raise f).rxh = s.rxh := rfl
@[simp] theorem State.raise_txPend (s : State) (f : Fault) : (s.raise f).txPend = s.txPend := rfl
@[simp] theorem State.raise_txLog (s : State) (f : Fault) : (s.raise f).txLog = s.txLog := rfl
@[simp] theorem State.raise_fault (s : State) (f : Fault) : (s.raise f).fault = some f := rfl
@[simp] theorem State.raise_sched (s : State) (f : Fault) : (s.raise f).sched = s.sched := rfl

/-! ### `respond` -/

@[simp] theorem State.respond_par (s : State) (p : Port) (r : Response) : (s.respond p r).par = s.par := by cases p <;> rfl
@[simp] theorem State.respond_rd (s : State) (p : Port) (r : Response) : (s.respond p r).rd = s.rd := by cases p <;> rfl
@[simp] theorem State.respond_wr (s : State) (p : Port) (r : Response) : (s.respond p r).wr = s.wr := by cases p <;> rfl
@[simp] theorem State.respond_cell (s : State) (p : Port) (r : Response) : (s.respond p r).cell = s.cell := by cases p <;> rfl
@[simp] theorem State.respond_snapBuf (s : State) (p : Port) (r : Response) : (s.respond p r).snapBuf = s.snapBuf := by cases p <;> rfl
@[simp] theorem State.respond_snapCnt (s : State) (p : Port) (r : Response) : (s.respond p r).snapCnt = s.snapCnt := by cases p <;> rfl
@[simp] theorem State.respond_fsm (s : State) (p : Port) (r : Response) : (s.respond p r).fsm = s.fsm := by cases p <;> rfl
@[simp] theorem State.respond_work (s : State) (p : Port) (r : Response) : (s.respond p r).work = s.work := by cases p <;> rfl
@[simp] theorem State.respond_rxh (s : State) (p : Port) (r : Response) : (s.respond p r).rxh = s.rxh := by cases p <;> rfl
@[simp] theorem State.respond_txPend (s : State) (p : Port) (r : Response) : (s.respond p r).txPend = s.txPend := by cases p <;> rfl
@[simp] theorem State.respond_txLog (s : State) (p : Port) (r : Response) : (s.respond p r).txLog = s.txLog := by cases p <;> rfl
@[simp] theorem State.respond_fault (s : State) (p : Port) (r : Response) : (s.respond p r).fault = s.fault := by cases p <;> rfl
@[simp] theorem State.respond_sched (s : State) (p : Port) (r : Response) : (s.respond p r).sched = s.sched := by cases p <;> rfl

/-! ### `accept` -/

@[simp] theorem State.accept_par (s : State) (p : Port) (w : Word) : (s.accept p w).par = s.par := by cases p <;> rfl
@[simp] theorem State.accept_rd (s : State) (p : Port) (w : Word) : (s.accept p w).rd = s.rd := by cases p <;> rfl
@[simp] theorem State.accept_wr (s : State) (p : Port) (w : Word) : (s.accept p w).wr = s.wr := by cases p <;> rfl
@[simp] theorem State.accept_cell (s : State) (p : Port) (w : Word) : (s.accept p w).cell = s.cell := by cases p <;> rfl
@[simp] theorem State.accept_snapBuf (s : State) (p : Port) (w : Word) : (s.accept p w).snapBuf = s.snapBuf := by cases p <;> rfl
@[simp] theorem State.accept_snapCnt (s : State) (p : Port) (w : Word) : (s.accept p w).snapCnt = s.snapCnt := by cases p <;> rfl
@[simp] theorem State.accept_fsm (s : State) (p : Port) (w : Word) : (s.accept p w).fsm = s.fsm := by cases p <;> rfl
@[simp] theorem State.accept_work (s : State) (p : Port) (w : Word) : (s.accept p w).work = s.work := by cases p <;> rfl
@[simp] theorem State.accept_rxh (s : State) (p : Port) (w : Word) : (s.accept p w).rxh = s.rxh := by cases p <;> rfl
@[simp] theorem State.accept_txPend (s : State) (p : Port) (w : Word) : (s.accept p w).txPend = s.txPend := by cases p <;> rfl
@[simp] theorem State.accept_txLog (s : State) (p : Port) (w : Word) : (s.accept p w).txLog = s.txLog := by cases p <;> rfl
@[simp] theorem State.accept_fault (s : State) (p : Port) (w : Word) : (s.accept p w).fault = s.fault := by cases p <;> rfl
@[simp] theorem State.accept_sched (s : State) (p : Port) (w : Word) : (s.accept p w).sched = s.sched := by cases p <;> rfl

/-! ### `respond` on `pp` -/

@[simp] theorem State.respond_pp_pbusy (s : State) (r : Response) : (s.respond .pp r).pbusy = false := rfl
@[simp] theorem State.respond_pp_cbusy (s : State) (r : Response) : (s.respond .pp r).cbusy = s.cbusy := rfl
@[simp] theorem State.respond_pp_ppReq (s : State) (r : Response) : (s.respond .pp r).ppReq = none := rfl
@[simp] theorem State.respond_pp_cpReq (s : State) (r : Response) : (s.respond .pp r).cpReq = s.cpReq := rfl
@[simp] theorem State.respond_pp_ppRsp (s : State) (r : Response) : (s.respond .pp r).ppRsp = some r := rfl
@[simp] theorem State.respond_pp_cpRsp (s : State) (r : Response) : (s.respond .pp r).cpRsp = s.cpRsp := rfl

/-! ### `respond` on `cp` -/

@[simp] theorem State.respond_cp_pbusy (s : State) (r : Response) : (s.respond .cp r).pbusy = s.pbusy := rfl
@[simp] theorem State.respond_cp_cbusy (s : State) (r : Response) : (s.respond .cp r).cbusy = false := rfl
@[simp] theorem State.respond_cp_ppReq (s : State) (r : Response) : (s.respond .cp r).ppReq = s.ppReq := rfl
@[simp] theorem State.respond_cp_cpReq (s : State) (r : Response) : (s.respond .cp r).cpReq = none := rfl
@[simp] theorem State.respond_cp_ppRsp (s : State) (r : Response) : (s.respond .cp r).ppRsp = s.ppRsp := rfl
@[simp] theorem State.respond_cp_cpRsp (s : State) (r : Response) : (s.respond .cp r).cpRsp = some r := rfl

/-! ### `accept` on `pp` -/

@[simp] theorem State.accept_pp_pbusy (s : State) (w : Word) : (s.accept .pp w).pbusy = true := rfl
@[simp] theorem State.accept_pp_cbusy (s : State) (w : Word) : (s.accept .pp w).cbusy = s.cbusy := rfl
@[simp] theorem State.accept_pp_ppReq (s : State) (w : Word) : (s.accept .pp w).ppReq = some w := rfl
@[simp] theorem State.accept_pp_cpReq (s : State) (w : Word) : (s.accept .pp w).cpReq = s.cpReq := rfl
@[simp] theorem State.accept_pp_ppRsp (s : State) (w : Word) : (s.accept .pp w).ppRsp = none := rfl
@[simp] theorem State.accept_pp_cpRsp (s : State) (w : Word) : (s.accept .pp w).cpRsp = s.cpRsp := rfl

/-! ### `accept` on `cp` -/

@[simp] theorem State.accept_cp_pbusy (s : State) (w : Word) : (s.accept .cp w).pbusy = s.pbusy := rfl
@[simp] theorem State.accept_cp_cbusy (s : State) (w : Word) : (s.accept .cp w).cbusy = true := rfl
@[simp] theorem State.accept_cp_ppReq (s : State) (w : Word) : (s.accept .cp w).ppReq = s.ppReq := rfl
@[simp] theorem State.accept_cp_cpReq (s : State) (w : Word) : (s.accept .cp w).cpReq = some w := rfl
@[simp] theorem State.accept_cp_ppRsp (s : State) (w : Word) : (s.accept .cp w).ppRsp = s.ppRsp := rfl
@[simp] theorem State.accept_cp_cpRsp (s : State) (w : Word) : (s.accept .cp w).cpRsp = none := rfl

/-! ### `emit` -/

@[simp] theorem State.emit_par (s : State) (bs : List Byte) : (s.emit bs).par = s.par := rfl
@[simp] theorem State.emit_rd (s : State) (bs : List Byte) : (s.emit bs).rd = s.rd := rfl
@[simp] theorem State.emit_wr (s : State) (bs : List Byte) : (s.emit bs).wr = s.wr := rfl
@[simp] theorem State.emit_cell (s : State) (bs : List Byte) : (s.emit bs).cell = s.cell := rfl
@[simp] theorem State.emit_snapBuf (s : State) (bs : List Byte) : (s.emit bs).snapBuf = s.snapBuf := rfl
@[simp] theorem State.emit_snapCnt (s : State) (bs : List Byte) : (s.emit bs).snapCnt = s.snapCnt := rfl
@[simp] theorem State.emit_fsm (s : State) (bs : List Byte) : (s.emit bs).fsm = s.fsm := rfl
@[simp] theorem State.emit_work (s : State) (bs : List Byte) : (s.emit bs).work = s.work := rfl
@[simp] theorem State.emit_pbusy (s : State) (bs : List Byte) : (s.emit bs).pbusy = s.pbusy := rfl
@[simp] theorem State.emit_cbusy (s : State) (bs : List Byte) : (s.emit bs).cbusy = s.cbusy := rfl
@[simp] theorem State.emit_ppReq (s : State) (bs : List Byte) : (s.emit bs).ppReq = s.ppReq := rfl
@[simp] theorem State.emit_cpReq (s : State) (bs : List Byte) : (s.emit bs).cpReq = s.cpReq := rfl
@[simp] theorem State.emit_ppRsp (s : State) (bs : List Byte) : (s.emit bs).ppRsp = s.ppRsp := rfl
@[simp] theorem State.emit_cpRsp (s : State) (bs : List Byte) : (s.emit bs).cpRsp = s.cpRsp := rfl
@[simp] theorem State.emit_rxh (s : State) (bs : List Byte) : (s.emit bs).rxh = s.rxh := rfl
@[simp] theorem State.emit_txPend (s : State) (bs : List Byte) : (s.emit bs).txPend = s.txPend ++ bs := rfl
@[simp] theorem State.emit_txLog (s : State) (bs : List Byte) : (s.emit bs).txLog = s.txLog ++ bs := rfl
@[simp] theorem State.emit_fault (s : State) (bs : List Byte) : (s.emit bs).fault = s.fault := rfl
@[simp] theorem State.emit_sched (s : State) (bs : List Byte) : (s.emit bs).sched = s.sched := rfl

/-! ### `memWrite` -/

@[simp] theorem State.memWrite_par (s : State) (i : Nat) (b : Byte) : (s.memWrite i b).par = s.par := rfl
@[simp] theorem State.memWrite_rd (s : State) (i : Nat) (b : Byte) : (s.memWrite i b).rd = s.rd := rfl
@[simp] theorem State.memWrite_wr (s : State) (i : Nat) (b : Byte) : (s.memWrite i b).wr = s.wr := rfl
@[simp] theorem State.memWrite_cell (s : State) (i : Nat) (b : Byte) : (s.memWrite i b).cell = Memory.write s.cell i b := rfl
@[simp] theorem State.memWrite_snapBuf (s : State) (i : Nat) (b : Byte) : (s.memWrite i b).snapBuf = s.snapBuf := rfl
@[simp] theorem State.memWrite_snapCnt (s : State) (i : Nat) (b : Byte) : (s.memWrite i b).snapCnt = s.snapCnt := rfl
@[simp] theorem State.memWrite_fsm (s : State) (i : Nat) (b : Byte) : (s.memWrite i b).fsm = s.fsm := rfl
@[simp] theorem State.memWrite_work (s : State) (i : Nat) (b : Byte) : (s.memWrite i b).work = s.work := rfl
@[simp] theorem State.memWrite_pbusy (s : State) (i : Nat) (b : Byte) : (s.memWrite i b).pbusy = s.pbusy := rfl
@[simp] theorem State.memWrite_cbusy (s : State) (i : Nat) (b : Byte) : (s.memWrite i b).cbusy = s.cbusy := rfl
@[simp] theorem State.memWrite_ppReq (s : State) (i : Nat) (b : Byte) : (s.memWrite i b).ppReq = s.ppReq := rfl
@[simp] theorem State.memWrite_cpReq (s : State) (i : Nat) (b : Byte) : (s.memWrite i b).cpReq = s.cpReq := rfl
@[simp] theorem State.memWrite_ppRsp (s : State) (i : Nat) (b : Byte) : (s.memWrite i b).ppRsp = s.ppRsp := rfl
@[simp] theorem State.memWrite_cpRsp (s : State) (i : Nat) (b : Byte) : (s.memWrite i b).cpRsp = s.cpRsp := rfl
@[simp] theorem State.memWrite_rxh (s : State) (i : Nat) (b : Byte) : (s.memWrite i b).rxh = s.rxh := rfl
@[simp] theorem State.memWrite_txPend (s : State) (i : Nat) (b : Byte) : (s.memWrite i b).txPend = s.txPend := rfl
@[simp] theorem State.memWrite_txLog (s : State) (i : Nat) (b : Byte) : (s.memWrite i b).txLog = s.txLog := rfl
@[simp] theorem State.memWrite_fault (s : State) (i : Nat) (b : Byte) : (s.memWrite i b).fault = s.fault := rfl
@[simp] theorem State.memWrite_sched (s : State) (i : Nat) (b : Byte) : (s.memWrite i b).sched = s.sched := rfl

/-! ### `memClear` -/

@[simp] theorem State.memClear_par (s : State) (i : Nat) : (s.memClear i).par = s.par := rfl
@[simp] theorem State.memClear_rd (s : State) (i : Nat) : (s.memClear i).rd = s.rd := rfl
@[simp] theorem State.memClear_wr (s : State) (i : Nat) : (s.memClear i).wr = s.wr := rfl
@[simp] theorem State.memClear_cell (s : State) (i : Nat) : (s.memClear i).cell = Memory.clear s.cell i := rfl
@[simp] theorem State.memClear_snapBuf (s : State) (i : Nat) : (s.memClear i).snapBuf = s.snapBuf := rfl
@[simp] theorem State.memClear_snapCnt (s : State) (i : Nat) : (s.memClear i).snapCnt = s.snapCnt := rfl
@[simp] theorem State.memClear_fsm (s : State) (i : Nat) : (s.memClear i).fsm = s.fsm := rfl
@[simp] theorem State.memClear_work (s : State) (i : Nat) : (s.memClear i).work = s.work := rfl
@[simp] theorem State.memClear_pbusy (s : State) (i : Nat) : (s.memClear i).pbusy = s.pbusy := rfl
@[simp] theorem State.memClear_cbusy (s : State) (i : Nat) : (s.memClear i).cbusy = s.cbusy := rfl
@[simp] theorem State.memClear_ppReq (s : State) (i : Nat) : (s.memClear i).ppReq = s.ppReq := rfl
@[simp] theorem State.memClear_cpReq (s : State) (i : Nat) : (s.memClear i).cpReq = s.cpReq := rfl
@[simp] theorem State.memClear_ppRsp (s : State) (i : Nat) : (s.memClear i).ppRsp = s.ppRsp := rfl
@[simp] theorem State.memClear_cpRsp (s : State) (i : Nat) : (s.memClear i).cpRsp = s.cpRsp := rfl
@[simp] theorem State.memClear_rxh (s : State) (i : Nat) : (s.memClear i).rxh = s.rxh := rfl
@[simp] theorem State.memClear_txPend (s : State) (i : Nat) : (s.memClear i).txPend = s.txPend := rfl
@[simp] theorem State.memClear_txLog (s : State) (i : Nat) : (s.memClear i).txLog = s.txLog := rfl
@[simp] theorem State.memClear_fault (s : State) (i : Nat) : (s.memClear i).fault = s.fault := rfl
@[simp] theorem State.memClear_sched (s : State) (i : Nat) : (s.memClear i).sched = s.sched := rfl

/-! ### `append` -/

@[simp] theorem State.append_par (s : State) (b : Byte) : (s.append b).par = s.par := rfl
@[simp] theorem State.append_rd (s : State) (b : Byte) : (s.append b).rd = s.rd := rfl
@[simp] theorem State.append_wr (s : State) (b : Byte) : (s.append b).wr = s.cursorNext s.wr := rfl
@[simp] theorem State.append_cell (s : State) (b : Byte) : (s.append b).cell = Memory.write s.cell s.tailCell b := rfl
@[simp] theorem State.append_snapBuf (s : State) (b : Byte) : (s.append b).snapBuf = s.snapBuf := rfl
@[simp] theorem State.append_snapCnt (s : State) (b : Byte) : (s.append b).snapCnt = s.snapCnt := rfl
@[simp] theorem State.append_fsm (s : State) (b : Byte) : (s.append b).fsm = s.fsm := rfl
@[simp] theorem State.append_work (s : State) (b : Byte) : (s.append b).work = s.work := rfl
@[simp] theorem State.append_pbusy (s : State) (b : Byte) : (s.append b).pbusy = s.pbusy := rfl
@[simp] theorem State.append_cbusy (s : State) (b : Byte) : (s.append b).cbusy = s.cbusy := rfl
@[simp] theorem State.append_ppReq (s : State) (b : Byte) : (s.append b).ppReq = s.ppReq := rfl
@[simp] theorem State.append_cpReq (s : State) (b : Byte) : (s.append b).cpReq = s.cpReq := rfl
@[simp] theorem State.append_ppRsp (s : State) (b : Byte) : (s.append b).ppRsp = s.ppRsp := rfl
@[simp] theorem State.append_cpRsp (s : State) (b : Byte) : (s.append b).cpRsp = s.cpRsp := rfl
@[simp] theorem State.append_rxh (s : State) (b : Byte) : (s.append b).rxh = s.rxh := rfl
@[simp] theorem State.append_txPend (s : State) (b : Byte) : (s.append b).txPend = s.txPend := rfl
@[simp] theorem State.append_txLog (s : State) (b : Byte) : (s.append b).txLog = s.txLog := rfl
@[simp] theorem State.append_fault (s : State) (b : Byte) : (s.append b).fault = s.fault := rfl
@[simp] theorem State.append_sched (s : State) (b : Byte) : (s.append b).sched = s.sched := rfl

/-! ### `dropFront` -/

@[simp] theorem State.dropFront_par (s : State) : (s.dropFront).par = s.par := rfl
@[simp] theorem State.dropFront_rd (s : State) : (s.dropFront).rd = s.cursorNext s.rd := rfl
@[simp] theorem State.dropFront_wr (s : State) : (s.dropFront).wr = s.wr := rfl
@[simp] theorem State.dropFront_cell (s : State) : (s.dropFront).cell = Memory.clear s.cell (s.elemCell 0) := rfl
@[simp] theorem State.dropFront_snapBuf (s : State) : (s.dropFront).snapBuf = s.snapBuf := rfl
@[simp] theorem State.dropFront_snapCnt (s : State) : (s.dropFront).snapCnt = s.snapCnt := rfl
@[simp] theorem State.dropFront_fsm (s : State) : (s.dropFront).fsm = s.fsm := rfl
@[simp] theorem State.dropFront_work (s : State) : (s.dropFront).work = s.work := rfl
@[simp] theorem State.dropFront_pbusy (s : State) : (s.dropFront).pbusy = s.pbusy := rfl
@[simp] theorem State.dropFront_cbusy (s : State) : (s.dropFront).cbusy = s.cbusy := rfl
@[simp] theorem State.dropFront_ppReq (s : State) : (s.dropFront).ppReq = s.ppReq := rfl
@[simp] theorem State.dropFront_cpReq (s : State) : (s.dropFront).cpReq = s.cpReq := rfl
@[simp] theorem State.dropFront_ppRsp (s : State) : (s.dropFront).ppRsp = s.ppRsp := rfl
@[simp] theorem State.dropFront_cpRsp (s : State) : (s.dropFront).cpRsp = s.cpRsp := rfl
@[simp] theorem State.dropFront_rxh (s : State) : (s.dropFront).rxh = s.rxh := rfl
@[simp] theorem State.dropFront_txPend (s : State) : (s.dropFront).txPend = s.txPend := rfl
@[simp] theorem State.dropFront_txLog (s : State) : (s.dropFront).txLog = s.txLog := rfl
@[simp] theorem State.dropFront_fault (s : State) : (s.dropFront).fault = s.fault := rfl
@[simp] theorem State.dropFront_sched (s : State) : (s.dropFront).sched = s.sched := rfl

/-! ### `loadSnap` -/

@[simp] theorem State.loadSnap_par (s : State) (bs : List Byte) : (s.loadSnap bs).par = s.par := rfl
@[simp] theorem State.loadSnap_rd (s : State) (bs : List Byte) : (s.loadSnap bs).rd = s.rd := rfl
@[simp] theorem State.loadSnap_wr (s : State) (bs : List Byte) : (s.loadSnap bs).wr = s.wr := rfl
@[simp] theorem State.loadSnap_cell (s : State) (bs : List Byte) : (s.loadSnap bs).cell = s.cell := rfl
@[simp] theorem State.loadSnap_snapBuf (s : State) (bs : List Byte) : (s.loadSnap bs).snapBuf = bs ++ s.snapBuf.drop bs.length := rfl
@[simp] theorem State.loadSnap_snapCnt (s : State) (bs : List Byte) : (s.loadSnap bs).snapCnt = bs.length := rfl
@[simp] theorem State.loadSnap_fsm (s : State) (bs : List Byte) : (s.loadSnap bs).fsm = s.fsm := rfl
@[simp] theorem State.loadSnap_work (s : State) (bs : List Byte) : (s.loadSnap bs).work = s.work := rfl
@[simp] theorem State.loadSnap_pbusy (s : State) (bs : List Byte) : (s.loadSnap bs).pbusy = s.pbusy := rfl
@[simp] theorem State.loadSnap_cbusy (s : State) (bs : List Byte) : (s.loadSnap bs).cbusy = s.cbusy := rfl
@[simp] theorem State.loadSnap_ppReq (s : State) (bs : List Byte) : (s.loadSnap bs).ppReq = s.ppReq := rfl
@[simp] theorem State.loadSnap_cpReq (s : State) (bs : List Byte) : (s.loadSnap bs).cpReq = s.cpReq := rfl
@[simp] theorem State.loadSnap_ppRsp (s : State) (bs : List Byte) : (s.loadSnap bs).ppRsp = s.ppRsp := rfl
@[simp] theorem State.loadSnap_cpRsp (s : State) (bs : List Byte) : (s.loadSnap bs).cpRsp = s.cpRsp := rfl
@[simp] theorem State.loadSnap_rxh (s : State) (bs : List Byte) : (s.loadSnap bs).rxh = s.rxh := rfl
@[simp] theorem State.loadSnap_txPend (s : State) (bs : List Byte) : (s.loadSnap bs).txPend = s.txPend := rfl
@[simp] theorem State.loadSnap_txLog (s : State) (bs : List Byte) : (s.loadSnap bs).txLog = s.txLog := rfl
@[simp] theorem State.loadSnap_fault (s : State) (bs : List Byte) : (s.loadSnap bs).fault = s.fault := rfl
@[simp] theorem State.loadSnap_sched (s : State) (bs : List Byte) : (s.loadSnap bs).sched = s.sched := rfl

/-! ### `finishParse` -/

@[simp] theorem State.finishParse_par (s : State) (o : ParseOutcome) : (s.finishParse o).par = s.par := rfl
@[simp] theorem State.finishParse_rd (s : State) (o : ParseOutcome) : (s.finishParse o).rd = s.rd := rfl
@[simp] theorem State.finishParse_wr (s : State) (o : ParseOutcome) : (s.finishParse o).wr = s.wr := rfl
@[simp] theorem State.finishParse_cell (s : State) (o : ParseOutcome) : (s.finishParse o).cell = s.cell := rfl
@[simp] theorem State.finishParse_snapBuf (s : State) (o : ParseOutcome) : (s.finishParse o).snapBuf = s.snapBuf := rfl
@[simp] theorem State.finishParse_snapCnt (s : State) (o : ParseOutcome) : (s.finishParse o).snapCnt = s.snapCnt := rfl
@[simp] theorem State.finishParse_fsm (s : State) (o : ParseOutcome) : (s.finishParse o).fsm = .done := rfl
@[simp] theorem State.finishParse_work (s : State) (o : ParseOutcome) : (s.finishParse o).work = { s.work with out := o } := rfl
@[simp] theorem State.finishParse_pbusy (s : State) (o : ParseOutcome) : (s.finishParse o).pbusy = s.pbusy := rfl
@[simp] theorem State.finishParse_cbusy (s : State) (o : ParseOutcome) : (s.finishParse o).cbusy = s.cbusy := rfl
@[simp] theorem State.finishParse_ppReq (s : State) (o : ParseOutcome) : (s.finishParse o).ppReq = s.ppReq := rfl
@[simp] theorem State.finishParse_cpReq (s : State) (o : ParseOutcome) : (s.finishParse o).cpReq = s.cpReq := rfl
@[simp] theorem State.finishParse_ppRsp (s : State) (o : ParseOutcome) : (s.finishParse o).ppRsp = s.ppRsp := rfl
@[simp] theorem State.finishParse_cpRsp (s : State) (o : ParseOutcome) : (s.finishParse o).cpRsp = s.cpRsp := rfl
@[simp] theorem State.finishParse_rxh (s : State) (o : ParseOutcome) : (s.finishParse o).rxh = s.rxh := rfl
@[simp] theorem State.finishParse_txPend (s : State) (o : ParseOutcome) : (s.finishParse o).txPend = s.txPend := rfl
@[simp] theorem State.finishParse_txLog (s : State) (o : ParseOutcome) : (s.finishParse o).txLog = s.txLog := rfl
@[simp] theorem State.finishParse_fault (s : State) (o : ParseOutcome) : (s.finishParse o).fault = s.fault := rfl
@[simp] theorem State.finishParse_sched (s : State) (o : ParseOutcome) : (s.finishParse o).sched = s.sched := rfl

/-! ### `emitReply` -/

@[simp] theorem State.emitReply_par (s : State) : (s.emitReply).par = s.par := rfl
@[simp] theorem State.emitReply_rd (s : State) : (s.emitReply).rd = s.rd := rfl
@[simp] theorem State.emitReply_wr (s : State) : (s.emitReply).wr = s.wr := rfl
@[simp] theorem State.emitReply_cell (s : State) : (s.emitReply).cell = s.cell := rfl
@[simp] theorem State.emitReply_snapBuf (s : State) : (s.emitReply).snapBuf = s.snapBuf := rfl
@[simp] theorem State.emitReply_snapCnt (s : State) : (s.emitReply).snapCnt = s.snapCnt := rfl
@[simp] theorem State.emitReply_fsm (s : State) : (s.emitReply).fsm = s.fsm := rfl
@[simp] theorem State.emitReply_work (s : State) : (s.emitReply).work = s.work := rfl
@[simp] theorem State.emitReply_pbusy (s : State) : (s.emitReply).pbusy = s.pbusy := rfl
@[simp] theorem State.emitReply_cbusy (s : State) : (s.emitReply).cbusy = s.cbusy := rfl
@[simp] theorem State.emitReply_ppReq (s : State) : (s.emitReply).ppReq = s.ppReq := rfl
@[simp] theorem State.emitReply_cpReq (s : State) : (s.emitReply).cpReq = s.cpReq := rfl
@[simp] theorem State.emitReply_ppRsp (s : State) : (s.emitReply).ppRsp = s.ppRsp := rfl
@[simp] theorem State.emitReply_cpRsp (s : State) : (s.emitReply).cpRsp = s.cpRsp := rfl
@[simp] theorem State.emitReply_rxh (s : State) : (s.emitReply).rxh = s.rxh := rfl
@[simp] theorem State.emitReply_txPend (s : State) : (s.emitReply).txPend = s.txPend ++ reply s.par := rfl
@[simp] theorem State.emitReply_txLog (s : State) : (s.emitReply).txLog = s.txLog ++ reply s.par := rfl
@[simp] theorem State.emitReply_fault (s : State) : (s.emitReply).fault = s.fault := rfl
@[simp] theorem State.emitReply_sched (s : State) : (s.emitReply).sched = s.sched := rfl

/-! ### `txSink` -/

@[simp] theorem State.txSink_par (s : State) : (s.txSink).par = s.par := rfl
@[simp] theorem State.txSink_rd (s : State) : (s.txSink).rd = s.rd := rfl
@[simp] theorem State.txSink_wr (s : State) : (s.txSink).wr = s.wr := rfl
@[simp] theorem State.txSink_cell (s : State) : (s.txSink).cell = s.cell := rfl
@[simp] theorem State.txSink_snapBuf (s : State) : (s.txSink).snapBuf = s.snapBuf := rfl
@[simp] theorem State.txSink_snapCnt (s : State) : (s.txSink).snapCnt = s.snapCnt := rfl
@[simp] theorem State.txSink_fsm (s : State) : (s.txSink).fsm = s.fsm := rfl
@[simp] theorem State.txSink_work (s : State) : (s.txSink).work = s.work := rfl
@[simp] theorem State.txSink_pbusy (s : State) : (s.txSink).pbusy = s.pbusy := rfl
@[simp] theorem State.txSink_cbusy (s : State) : (s.txSink).cbusy = s.cbusy := rfl
@[simp] theorem State.txSink_ppReq (s : State) : (s.txSink).ppReq = s.ppReq := rfl
@[simp] theorem State.txSink_cpReq (s : State) : (s.txSink).cpReq = s.cpReq := rfl
@[simp] theorem State.txSink_ppRsp (s : State) : (s.txSink).ppRsp = s.ppRsp := rfl
@[simp] theorem State.txSink_cpRsp (s : State) : (s.txSink).cpRsp = s.cpRsp := rfl
@[simp] theorem State.txSink_rxh (s : State) : (s.txSink).rxh = s.rxh := rfl
@[simp] theorem State.txSink_txPend (s : State) : (s.txSink).txPend = s.txPend.tail := rfl
@[simp] theorem State.txSink_txLog (s : State) : (s.txSink).txLog = s.txLog := rfl
@[simp] theorem State.txSink_fault (s : State) : (s.txSink).fault = s.fault := rfl
@[simp] theorem State.txSink_sched (s : State) : (s.txSink).sched = s.sched := rfl

/-! ### `withSched` -/

@[simp] theorem State.withSched_par (s : State) (es : List Event) : (s.withSched es).par = s.par := rfl
@[simp] theorem State.withSched_rd (s : State) (es : List Event) : (s.withSched es).rd = s.rd := rfl
@[simp] theorem State.withSched_wr (s : State) (es : List Event) : (s.withSched es).wr = s.wr := rfl
@[simp] theorem State.withSched_cell (s : State) (es : List Event) : (s.withSched es).cell = s.cell := rfl
@[simp] theorem State.withSched_snapBuf (s : State) (es : List Event) : (s.withSched es).snapBuf = s.snapBuf := rfl
@[simp] theorem State.withSched_snapCnt (s : State) (es : List Event) : (s.withSched es).snapCnt = s.snapCnt := rfl
@[simp] theorem State.withSched_fsm (s : State) (es : List Event) : (s.withSched es).fsm = s.fsm := rfl
@[simp] theorem State.withSched_work (s : State) (es : List Event) : (s.withSched es).work = s.work := rfl
@[simp] theorem State.withSched_pbusy (s : State) (es : List Event) : (s.withSched es).pbusy = s.pbusy := rfl
@[simp] theorem State.withSched_cbusy (s : State) (es : List Event) : (s.withSched es).cbusy = s.cbusy := rfl
@[simp] theorem State.withSched_ppReq (s : State) (es : List Event) : (s.withSched es).ppReq = s.ppReq := rfl
@[simp] theorem State.withSched_cpReq (s : State) (es : List Event) : (s.withSched es).cpReq = s.cpReq := rfl
@[simp] theorem State.withSched_ppRsp (s : State) (es : List Event) : (s.withSched es).ppRsp = s.ppRsp := rfl
@[simp] theorem State.withSched_cpRsp (s : State) (es : List Event) : (s.withSched es).cpRsp = s.cpRsp := rfl
@[simp] theorem State.withSched_rxh (s : State) (es : List Event) : (s.withSched es).rxh = s.rxh := rfl
@[simp] theorem State.withSched_txPend (s : State) (es : List Event) : (s.withSched es).txPend = s.txPend := rfl
@[simp] theorem State.withSched_txLog (s : State) (es : List Event) : (s.withSched es).txLog = s.txLog := rfl
@[simp] theorem State.withSched_fault (s : State) (es : List Event) : (s.withSched es).fault = s.fault := rfl
@[simp] theorem State.withSched_sched (s : State) (es : List Event) : (s.withSched es).sched = es := rfl

/-! ### `resetAll` -/

@[simp] theorem State.resetAll_par (s : State) : (s.resetAll).par = s.par := rfl
@[simp] theorem State.resetAll_rd (s : State) : (s.resetAll).rd = (State.resetWith s.par).rd := rfl
@[simp] theorem State.resetAll_wr (s : State) : (s.resetAll).wr = (State.resetWith s.par).wr := rfl
@[simp] theorem State.resetAll_cell (s : State) : (s.resetAll).cell = (State.resetWith s.par).cell := rfl
@[simp] theorem State.resetAll_snapBuf (s : State) : (s.resetAll).snapBuf = (State.resetWith s.par).snapBuf := rfl
@[simp] theorem State.resetAll_snapCnt (s : State) : (s.resetAll).snapCnt = (State.resetWith s.par).snapCnt := rfl
@[simp] theorem State.resetAll_fsm (s : State) : (s.resetAll).fsm = (State.resetWith s.par).fsm := rfl
@[simp] theorem State.resetAll_work (s : State) : (s.resetAll).work = (State.resetWith s.par).work := rfl
@[simp] theorem State.resetAll_pbusy (s : State) : (s.resetAll).pbusy = (State.resetWith s.par).pbusy := rfl
@[simp] theorem State.resetAll_cbusy (s : State) : (s.resetAll).cbusy = (State.resetWith s.par).cbusy := rfl
@[simp] theorem State.resetAll_ppReq (s : State) : (s.resetAll).ppReq = (State.resetWith s.par).ppReq := rfl
@[simp] theorem State.resetAll_cpReq (s : State) : (s.resetAll).cpReq = (State.resetWith s.par).cpReq := rfl
@[simp] theorem State.resetAll_ppRsp (s : State) : (s.resetAll).ppRsp = (State.resetWith s.par).ppRsp := rfl
@[simp] theorem State.resetAll_cpRsp (s : State) : (s.resetAll).cpRsp = (State.resetWith s.par).cpRsp := rfl
@[simp] theorem State.resetAll_rxh (s : State) : (s.resetAll).rxh = (State.resetWith s.par).rxh := rfl
@[simp] theorem State.resetAll_txPend (s : State) : (s.resetAll).txPend = (State.resetWith s.par).txPend := rfl
@[simp] theorem State.resetAll_txLog (s : State) : (s.resetAll).txLog = (State.resetWith s.par).txLog := rfl
@[simp] theorem State.resetAll_fault (s : State) : (s.resetAll).fault = (State.resetWith s.par).fault := rfl
@[simp] theorem State.resetAll_sched (s : State) : (s.resetAll).sched = s.sched := rfl

/-! ### Derived values read only the fields they are functions of -/

/-- Two states with the same cursors, cells and parameters have the same elements. -/
theorem State.elems_congr {s t : State} (hp : t.par = s.par) (hr : t.rd = s.rd) (hw : t.wr = s.wr) (hc : t.cell = s.cell) :
    t.elems = s.elems := by
  simp only [State.elems, State.len, State.elemCell, hp, hr, hw, hc]

end Sys2Proof.Machine
end

