-- ==== Sys2Proof/Laws/Memory.lean ====
section
/-! SUPPORT. Queue storage as a list of cells: reads after writes and clears, and the canonical form every operation keeps. -/

namespace Sys2Proof.Machine.Memory

theorem wf_cons {c : Host.Cell} {m : Memory} : Memory.wf (c :: m) ↔ (∀ d ∈ m, c.1 < d.1) ∧ Memory.wf m := by
  simp [Memory.wf]

theorem read_write_same (m : Memory) (i : Nat) (v : Byte) : (Memory.write m i v).read i = some v := by
  induction m with
  | nil => simp [Memory.write, Memory.read]
  | cons c m ih =>
    obtain ⟨a, b⟩ := c
    unfold Memory.write
    split
    · simp [Memory.read]
    · split
      · simp [Memory.read]
      · simp [Memory.read, *]

theorem read_write_of_ne (m : Memory) {i j : Nat} (v : Byte) (h : j ≠ i) : (Memory.write m i v).read j = m.read j := by
  induction m with
  | nil => simp [Memory.write, Memory.read, h.symm]
  | cons c m ih =>
    obtain ⟨a, b⟩ := c
    unfold Memory.write
    split
    · simp [Memory.read, h.symm]
    · split
      · subst a
        simp [Memory.read, h.symm]
      · simp [Memory.read, ih]

theorem read_write (m : Memory) (i j : Nat) (v : Byte) :
    (Memory.write m i v).read j = if j = i then some v else m.read j := by
  split
  · subst j; exact read_write_same m i v
  · exact read_write_of_ne m v ‹_›

theorem read_eq_none_of_lt {m : Memory} {i : Nat} (h : ∀ c ∈ m, i < c.1) : m.read i = none := by
  induction m with
  | nil => rfl
  | cons c m ih =>
    have hc := h c (by simp)
    have hm := ih fun d hd => h d (by simp [hd])
    simp only [Memory.read, hm]
    simp only [ite_eq_right_iff, reduceCtorEq, imp_false]
    omega

theorem read_clear_same {m : Memory} (hm : Memory.wf m) (i : Nat) : (Memory.clear m i).read i = none := by
  induction m with
  | nil => rfl
  | cons c m ih =>
    obtain ⟨a, b⟩ := c
    obtain ⟨hlt, hm⟩ := wf_cons.1 hm
    unfold Memory.clear
    split
    · subst a; exact read_eq_none_of_lt hlt
    · simp [Memory.read, *]

theorem read_clear_of_ne (m : Memory) {i j : Nat} (h : j ≠ i) : (Memory.clear m i).read j = m.read j := by
  induction m with
  | nil => rfl
  | cons c m ih =>
    obtain ⟨a, b⟩ := c
    unfold Memory.clear
    split
    · subst a; simp [Memory.read, h.symm]
    · simp [Memory.read, ih]

theorem read_clear {m : Memory} (hm : Memory.wf m) (i j : Nat) :
    (Memory.clear m i).read j = if j = i then none else m.read j := by
  split
  · subst j; exact read_clear_same hm i
  · exact read_clear_of_ne m ‹_›

theorem index_of_mem_write {m : Memory} {i : Nat} {v : Byte} {c : Host.Cell} (h : c ∈ Memory.write m i v) :
    c.1 = i ∨ c ∈ m := by
  induction m with
  | nil => simp_all [Memory.write]
  | cons d m ih =>
    obtain ⟨a, b⟩ := d
    unfold Memory.write at h
    split at h
    · simp only [List.mem_cons] at h ⊢
      rcases h with rfl | h | h <;> simp_all
    · split at h
      · simp only [List.mem_cons] at h ⊢
        rcases h with rfl | h <;> simp_all
      · simp only [List.mem_cons] at h ⊢
        rcases h with rfl | h
        · simp
        · rcases ih h with h | h <;> simp [h]

theorem mem_of_mem_clear {m : Memory} {i : Nat} {c : Host.Cell} (h : c ∈ Memory.clear m i) : c ∈ m := by
  induction m with
  | nil => simp [Memory.clear] at h
  | cons d m ih =>
    obtain ⟨a, b⟩ := d
    unfold Memory.clear at h
    split at h
    · simp [h]
    · simp only [List.mem_cons] at h ⊢
      exact h.imp_right ih

/-- A write keeps the canonical form. -/
theorem write_wf {m : Memory} (hm : Memory.wf m) (i : Nat) (v : Byte) : Memory.wf (Memory.write m i v) := by
  induction m with
  | nil => simp [Memory.write, Memory.wf]
  | cons c m ih =>
    obtain ⟨a, b⟩ := c
    obtain ⟨hlt, hm'⟩ := wf_cons.1 hm
    unfold Memory.write
    split
    · refine wf_cons.2 ⟨fun d hd => ?_, hm⟩
      rcases List.mem_cons.1 hd with rfl | hd
      · assumption
      · exact lt_trans ‹_› (hlt d hd)
    · split
      · subst a; exact wf_cons.2 ⟨hlt, hm'⟩
      · refine wf_cons.2 ⟨fun d hd => ?_, ih hm'⟩
        rcases index_of_mem_write hd with h | h
        · simp only; omega
        · exact hlt d h

/-- A clear keeps the canonical form. -/
theorem clear_wf {m : Memory} (hm : Memory.wf m) (i : Nat) : Memory.wf (Memory.clear m i) := by
  induction m with
  | nil => exact hm
  | cons c m ih =>
    obtain ⟨a, b⟩ := c
    obtain ⟨hlt, hm'⟩ := wf_cons.1 hm
    unfold Memory.clear
    split
    · exact hm'
    · exact wf_cons.2 ⟨fun d hd => hlt d (mem_of_mem_clear hd), ih hm'⟩

/-- Two storages in canonical form with the same contents are equal. -/
theorem ext_of_wf {m n : Memory} (hm : Memory.wf m) (hn : Memory.wf n) (h : ∀ i, m.read i = n.read i) : m = n := by
  induction m generalizing n with
  | nil =>
    cases n with
    | nil => rfl
    | cons d n => have := h d.1; simp [Memory.read] at this
  | cons c m ih =>
    obtain ⟨hlt, hm'⟩ := wf_cons.1 hm
    cases n with
    | nil => have := h c.1; simp [Memory.read] at this
    | cons d n =>
      obtain ⟨hlt', hn'⟩ := wf_cons.1 hn
      have key : c.1 = d.1 := by
        rcases lt_trichotomy c.1 d.1 with hcd | hcd | hcd
        · have h1 := h c.1
          rw [read_eq_none_of_lt (m := d :: n) (i := c.1)] at h1
          · simp [Memory.read] at h1
          · intro e he
            rcases List.mem_cons.1 he with rfl | he
            · exact hcd
            · exact lt_trans hcd (hlt' e he)
        · exact hcd
        · have h1 := h d.1
          rw [read_eq_none_of_lt (m := c :: m) (i := d.1)] at h1
          · simp [Memory.read] at h1
          · intro e he
            rcases List.mem_cons.1 he with rfl | he
            · exact hcd
            · exact lt_trans hcd (hlt e he)
      have hb := h c.1
      obtain ⟨a, b⟩ := c
      obtain ⟨a', b'⟩ := d
      simp only at key
      subst key
      simp only [Memory.read, if_true, Option.some.injEq] at hb
      subst hb
      congr 1
      refine ih hm' hn' fun i => ?_
      by_cases hi : i = a
      · subst hi; rw [read_eq_none_of_lt hlt, read_eq_none_of_lt hlt']
      · have := h i
        simpa [Memory.read, Ne.symm hi] using this

end Sys2Proof.Machine.Memory
end

