-- ==== Sys2Proof/Laws/Queue.lean ====
section
/-! SUPPORT. The circular queue: cursor arithmetic, and one lemma per operation that says what it does to the queue's contents. -/

namespace Sys2Proof.Machine

/-! ## Cursor arithmetic -/

/-- Both cursors hold a value in `0..QUEUE_N-1` (10_state.md R20). -/
structure State.Cursors (s : State) : Prop where
  rd_lt : s.rd < s.par.queueN
  wr_lt : s.wr < s.par.queueN

theorem Inv.cursors {s : State} (h : Inv s) : s.Cursors := ⟨h.rd_lt, h.wr_lt⟩

theorem mod_of_lt_two_mul {a n : Nat} (h : a < 2 * n) : a % n = if a < n then a else a - n := by
  split
  · exact Nat.mod_eq_of_lt ‹_›
  · rw [Nat.mod_eq_sub_mod (by omega), Nat.mod_eq_of_lt (by omega)]

theorem State.len_eq {s : State} (h : s.Cursors) : s.len = if s.rd ≤ s.wr then s.wr - s.rd else s.wr + s.par.queueN - s.rd := by
  have := h.rd_lt
  have := h.wr_lt
  unfold State.len
  rw [mod_of_lt_two_mul (by omega)]
  split <;> split <;> omega

theorem State.len_lt {s : State} (h : s.Cursors) : s.len < s.par.queueN :=
  Nat.mod_lt _ (by have := h.rd_lt; omega)

theorem State.cursorNext_eq {s : State} {c : Nat} (h : c < s.par.queueN) :
    s.cursorNext c = if c + 1 < s.par.queueN then c + 1 else 0 := by
  unfold State.cursorNext
  rw [mod_of_lt_two_mul (by omega)]
  split <;> omega

theorem State.cursorNext_lt {s : State} (h : s.Cursors) (c : Nat) : s.cursorNext c < s.par.queueN :=
  Nat.mod_lt _ (by have := h.rd_lt; omega)

theorem State.elemCell_eq {s : State} (h : s.Cursors) {j : Nat} (hj : j < s.par.queueN) :
    s.elemCell j = if s.rd + j < s.par.queueN then s.rd + j else s.rd + j - s.par.queueN := by
  have := h.rd_lt
  exact mod_of_lt_two_mul (by omega)

theorem State.elemCell_zero {s : State} (h : s.Cursors) : s.elemCell 0 = s.rd := Nat.mod_eq_of_lt h.rd_lt

theorem State.tailCell_eq {s : State} (h : s.Cursors) : s.tailCell = s.wr := Nat.mod_eq_of_lt h.wr_lt

theorem State.tailCell_eq_elemCell_len {s : State} (h : s.Cursors) : s.tailCell = s.elemCell s.len := by
  have := h.rd_lt
  have := h.wr_lt
  rw [State.tailCell_eq h, State.elemCell_eq h (State.len_lt h), State.len_eq h]
  split <;> split <;> omega

theorem State.elemCell_inj {s : State} (h : s.Cursors) {i j : Nat} (hi : i < s.par.queueN) (hj : j < s.par.queueN)
    (he : s.elemCell i = s.elemCell j) : i = j := by
  have := h.rd_lt
  rw [State.elemCell_eq h hi, State.elemCell_eq h hj] at he
  split at he <;> split at he <;> omega

theorem State.empty_iff {s : State} (h : s.Cursors) : s.empty = true ↔ s.len = 0 := by
  have := h.rd_lt
  have := h.wr_lt
  rw [State.len_eq h]
  simp only [State.empty, beq_iff_eq]
  split <;> omega

theorem State.full_iff {s : State} (h : s.Cursors) : s.full = true ↔ s.len + 1 = s.par.queueN := by
  have := h.rd_lt
  have := h.wr_lt
  simp only [State.full, beq_iff_eq]
  rw [State.len_eq h, State.cursorNext_eq h.wr_lt]
  split <;> split <;> omega

/-! ## Contents -/

@[simp] theorem State.elems_length (s : State) : s.elems.length = s.len := by simp [State.elems]

theorem State.Holds.length {s : State} {q : List Byte} (h : s.Holds q) : s.len = q.length := by
  have := congrArg List.length h
  simpa using this

theorem State.elems_getElem? (s : State) (j : Nat) :
    s.elems[j]? = if j < s.len then some (Memory.read s.cell (s.elemCell j)) else none := by
  simp only [State.elems, List.getElem?_map]
  split <;> simp_all

theorem State.Holds.unique {s : State} {p q : List Byte} (hp : s.Holds p) (hq : s.Holds q) : p = q := by
  unfold State.Holds at hp hq
  rw [hp] at hq
  exact List.map_injective_iff.2 (Option.some_injective _) hq

/-! ## WRITE and READ on the contents -/

theorem State.append_cursors {s : State} (h : s.Cursors) (b : Byte) : (s.append b).Cursors :=
  ⟨by simpa using h.rd_lt, by simpa using State.cursorNext_lt h _⟩

theorem State.dropFront_cursors {s : State} (h : s.Cursors) : s.dropFront.Cursors :=
  ⟨by simpa using State.cursorNext_lt h _, by simpa using h.wr_lt⟩

theorem State.append_len {s : State} (h : s.Cursors) (hf : s.full = false) (b : Byte) : (s.append b).len = s.len + 1 := by
  have h1 := h.rd_lt
  have h2 := h.wr_lt
  have h3 : ¬ s.len + 1 = s.par.queueN := fun he => by simp [(State.full_iff h).2 he] at hf
  rw [State.len_eq h] at h3 ⊢
  rw [State.len_eq (State.append_cursors h b)]
  simp only [State.append_rd, State.append_wr, State.append_par, State.cursorNext_eq h2]
  split at h3 <;> split <;> split <;> omega

theorem State.dropFront_len {s : State} (h : s.Cursors) (he : s.empty = false) : s.dropFront.len + 1 = s.len := by
  have h1 := h.rd_lt
  have h2 := h.wr_lt
  have h3 : ¬ s.len = 0 := fun h0 => by simp [(State.empty_iff h).2 h0] at he
  rw [State.len_eq h] at h3 ⊢
  rw [State.len_eq (State.dropFront_cursors h)]
  simp only [State.dropFront_rd, State.dropFront_wr, State.dropFront_par, State.cursorNext_eq h1]
  split at h3 <;> split <;> split <;> omega

/-- A WRITE that succeeds appends its byte and leaves the other elements where they were (20_memory.md R46, R57). -/
theorem State.append_elems {s : State} (h : s.Cursors) (hf : s.full = false) (b : Byte) :
    (s.append b).elems = s.elems ++ [some b] := by
  have hlt := State.len_lt h
  apply List.ext_getElem?
  intro j
  have hcell : (s.append b).elemCell j = s.elemCell j := rfl
  rw [State.elems_getElem?, State.append_len h hf, hcell, State.append_cell, Memory.read_write,
    State.tailCell_eq_elemCell_len h]
  rcases lt_trichotomy j s.len with hj | rfl | hj
  · rw [List.getElem?_append_left (by simpa using hj), State.elems_getElem?, if_pos (by omega), if_neg, if_pos hj]
    exact fun he => (by omega : j ≠ s.len) (State.elemCell_inj h (by omega) hlt he)
  · rw [if_pos (by omega), if_pos rfl, List.getElem?_append_right (by simp)]
    simp
  · rw [if_neg (by omega), eq_comm, List.getElem?_eq_none]
    simp; omega

/-- A READ that succeeds removes the oldest element and leaves the rest (20_memory.md R46). -/
theorem State.dropFront_elems {s : State} (h : s.Cursors) (he : s.empty = false) :
    s.elems = Memory.read s.cell (s.elemCell 0) :: s.dropFront.elems := by
  have hlen := State.dropFront_len h he
  have hlt := State.len_lt h
  have h1 := h.rd_lt
  apply List.ext_getElem?
  intro j
  cases j with
  | zero => rw [State.elems_getElem?, if_pos (by omega)]; rfl
  | succ j =>
    rw [List.getElem?_cons_succ, State.elems_getElem?, State.elems_getElem?]
    by_cases hj : j + 1 < s.len
    · have hn : s.dropFront.elemCell j = s.elemCell (j + 1) := by
        rw [State.elemCell_eq (State.dropFront_cursors h) (by simp; omega), State.elemCell_eq h (by omega)]
        simp only [State.dropFront_rd, State.dropFront_par, State.cursorNext_eq h1]
        split <;> split <;> split <;> omega
      rw [if_pos hj, if_pos (by omega), hn, State.dropFront_cell, Memory.read_clear_of_ne]
      exact fun hc => by have := State.elemCell_inj h (by omega) (by omega) hc; omega
    · rw [if_neg hj, if_neg (by omega)]

/-! ## One lemma per operation -/

/-- Everything `queueRead` can do. -/
theorem State.queueRead_cases (s : State) :
    (s.empty = true ∧ s.queueRead = .ok (none, s)) ∨
    (s.empty = false ∧ Memory.read s.cell (s.elemCell 0) = none ∧ s.queueRead = .error (.uninitRead (s.elemCell 0))) ∨
    (∃ b, s.empty = false ∧ Memory.read s.cell (s.elemCell 0) = some b ∧ s.queueRead = .ok (some b, s.dropFront)) := by
  unfold State.queueRead State.memRead
  cases he : s.empty <;> cases hm : Memory.read s.cell (s.elemCell 0) <;> simp

/-- READ on a queue whose front is `b` (41_queue.md R103). -/
theorem State.queueRead_of_front {s : State} (h : s.Cursors) {b : Byte} {bs : List Byte} (hf : s.FrontIs (b :: bs)) :
    s.queueRead = .ok (some b, s.dropFront) ∧ s.dropFront.FrontIs bs := by
  have hne : s.empty = false := by
    cases he : s.empty with
    | false => rfl
    | true =>
      have h0 := (State.empty_iff h).1 he
      have := congrArg List.length hf
      simp [h0] at this
  have hel := State.dropFront_elems h hne
  simp only [State.FrontIs, hel, List.length_cons, List.take_succ_cons, List.map_cons, List.cons.injEq] at hf
  exact ⟨by simp [State.queueRead, State.memRead, hne, hf.1], hf.2⟩

/-- READ on a queue that holds `b :: q`. -/
theorem State.queueRead_of_holds {s : State} (h : s.Cursors) {b : Byte} {q : List Byte} (hq : s.Holds (b :: q)) :
    s.queueRead = .ok (some b, s.dropFront) ∧ s.dropFront.Holds q := by
  have hne : s.empty = false := by
    cases he : s.empty with
    | false => rfl
    | true => have := (State.empty_iff h).1 he; rw [hq.length] at this; simp at this
  have hel := State.dropFront_elems h hne
  simp only [State.Holds, hel, List.map_cons, List.cons.injEq] at hq
  exact ⟨by simp [State.queueRead, State.memRead, hne, hq.1], hq.2⟩

/-- WRITE on a queue that is not full (R100). -/
theorem State.append_holds {s : State} (h : s.Cursors) (hf : s.full = false) {q : List Byte} (hq : s.Holds q) (b : Byte) :
    (s.append b).Holds (q ++ [b]) := by
  rw [State.Holds, State.append_elems h hf, hq, List.map_append]
  rfl

/-- What a run of MemReads gives when the cells hold bytes (R109). -/
theorem State.readElems_of_elems {s : State} {n : Nat} : ∀ {j : Nat} {bs : List Byte},
    j + n ≤ s.len → (s.elems.drop j).take n = bs.map some → s.readElems j n = .ok bs := by
  induction n with
  | zero =>
    intro j bs _ h
    simp only [List.take_zero] at h
    cases bs with
    | nil => rfl
    | cons b bs => simp at h
  | succ n ih =>
    intro j bs hj h
    have hd : s.elems.drop j = Memory.read s.cell (s.elemCell j) :: s.elems.drop (j + 1) := by
      have hlt : j < s.elems.length := by simp; omega
      rw [List.drop_eq_getElem_cons hlt]
      congr 1
      have := State.elems_getElem? s j
      rw [if_pos (by omega), List.getElem?_eq_getElem hlt] at this
      exact Option.some.inj this
    rw [hd, List.take_succ_cons] at h
    cases bs with
    | nil => simp at h
    | cons b bs =>
      simp only [List.map_cons, List.cons.injEq] at h
      have := ih (j := j + 1) (bs := bs) (by omega) h.2
      simp [State.readElems, State.memRead, h.1, this]

theorem State.readElems_zero_of_holds {s : State} {q : List Byte} (hq : s.Holds q) {n : Nat} (hn : n ≤ s.len) :
    s.readElems 0 n = .ok (q.take n) := by
  apply State.readElems_of_elems (by omega)
  rw [List.drop_zero, hq, List.map_take]

/-- SNAPSHOT on a queue that holds `q` (R109, R110). -/
theorem State.snapshot_of_holds {s : State} {q : List Byte} (hq : s.Holds q) (m : Nat) :
    s.snapshot m = .ok (q.take m) := by
  rw [State.snapshot, State.readElems_zero_of_holds hq (by omega), hq.length]
  congr 1
  rcases le_total m q.length with h | h
  · rw [Nat.min_eq_left h]
  · rw [Nat.min_eq_right h, List.take_of_length_le le_rfl, List.take_of_length_le h]

/-- A run of MemReads that faults names a cell that holds `⊥` (20_memory.md R47). -/
theorem State.readElems_error {s : State} {n : Nat} : ∀ {j : Nat} {f : Fault}, s.readElems j n = .error f →
    ∃ i, j ≤ i ∧ i < j + n ∧ f = .uninitRead (s.elemCell i) ∧ Memory.read s.cell (s.elemCell i) = none := by
  induction n with
  | zero => intro j f h; simp [State.readElems] at h
  | succ n ih =>
    intro j f h
    unfold State.readElems State.memRead at h
    cases hm : Memory.read s.cell (s.elemCell j) with
    | none =>
      simp only [hm] at h
      exact ⟨j, le_rfl, by omega, by injection h with h; exact h.symm, hm⟩
    | some b =>
      simp only [hm] at h
      cases hr : s.readElems (j + 1) n with
      | error g =>
        simp only [hr] at h
        injection h with h
        subst h
        obtain ⟨i, h1, h2, h3⟩ := ih hr
        exact ⟨i, by omega, by omega, h3⟩
      | ok bs => simp [hr] at h

end Sys2Proof.Machine
end

