-- ==== Sys2Proof/Laws/Step.lean ====
section
/-! SUPPORT. What one step does: the event it performs, and one lemma per event. -/

namespace Sys2Proof.Machine

/-- A step performs the schedule's next event, when no fault is recorded. -/
theorem step_of_cons {s : State} {e : Event} {rest : List Event} (hf : s.fault = none) (hs : s.sched = e :: rest) :
    step s = (s.withSched rest).perform e := by
  simp [step, State.advance, State.react, hs, hf]

/-- An empty schedule is an idle machine. -/
theorem step_of_nil {s : State} (hf : s.fault = none) (hs : s.sched = []) : step s = .next s := by
  simp [step, State.advance, hs, hf]

/-- Reset comes in every state. -/
theorem step_of_reset {s : State} {rest : List Event} (hs : s.sched = .reset :: rest) :
    step s = .next ((State.resetWith s.par).withSched rest) := by
  cases hf : s.fault <;> simp [step, State.advance, State.react, State.perform, State.resetAll, hs, hf]

/-- Everything a step that answers a next state can be. -/
theorem step_next_cases {s t : State} (h : step s = .next t) :
    (s.fault = none ∧ s.sched = [] ∧ t = s) ∨
    (∃ e rest, s.sched = e :: rest ∧ s.fault = none ∧ (s.withSched rest).perform e = .next t) ∨
    (∃ rest, s.sched = .reset :: rest ∧ t = (State.resetWith s.par).withSched rest) := by
  rcases hs : s.sched with _ | ⟨e, rest⟩
  · rcases hf : s.fault with _ | f
    · rw [step_of_nil hf hs] at h
      exact .inl ⟨rfl, rfl, (Host.Outcome.next.inj h).symm⟩
    · simp [step, State.advance, hs, hf] at h
  · by_cases hf : s.fault = none
    · rw [step_of_cons hf hs] at h
      exact .inr (.inl ⟨e, rest, rfl, hf, h⟩)
    · obtain ⟨f, hf⟩ := Option.ne_none_iff_exists'.1 hf
      by_cases he : e = .reset
      · subst he
        rw [step_of_reset hs] at h
        exact .inr (.inr ⟨rest, rfl, (Host.Outcome.next.inj h).symm⟩)
      · simp [step, State.advance, State.react, hs, hf, he] at h

/-- The consumer's step when no PARSE is in progress. -/
theorem State.serve_cp_idle {s : State} (h : s.fsm = .idle) : s.serve .cp = s.serveRequest .cp := by
  simp [State.serve, h]

/-- The consumer's step when a PARSE is in progress. -/
theorem State.serve_cp_parsing {s : State} (h : s.fsm ≠ .idle) : s.serve .cp = .next s.parseStep := by
  simp [State.serve, h]

/-- One step of the consumer with a PARSE in progress is one transition of the engine. -/
theorem step_of_parsing {s : State} {rest : List Event} (hf : s.fault = none) (hs : s.sched = .serve .cp :: rest)
    (h : s.fsm ≠ .idle) : step s = .next (s.withSched rest).parseStep := by
  rw [step_of_cons hf hs]
  exact State.serve_cp_parsing (s := s.withSched rest) h

/-- A port's outstanding word that decodes takes effect. -/
theorem State.serveRequest_ok {s : State} {p : Port} {w : Word} {i : Instr} (hr : s.request p = some w) (hd : decode p w = .ok i) :
    s.serveRequest p = exec i s := by
  simp [State.serveRequest, hr, hd]

/-- A port's outstanding illegal word is answered. -/
theorem State.serveRequest_error {s : State} {p : Port} {w : Word} {e : DecodeError} (hr : s.request p = some w)
    (hd : decode p w = .error e) : s.serveRequest p = .next (s.respond p .illegal) := by
  simp [State.serveRequest, hr, hd]

/-- A port with nothing outstanding: its agent idles. -/
theorem State.serveRequest_none {s : State} {p : Port} (hr : s.request p = none) : s.serveRequest p = .next s := by
  simp [State.serveRequest, hr]

/-! ## The operations answer a next state -/

/-- Everything WRITE can do (41_queue.md R100, R101). -/
theorem execWrite_cases (b : Byte) (s : State) :
    (s.full = true ∧ execWrite b s = .next (s.respond .pp (.ok false))) ∨
    (s.full = false ∧ execWrite b s = .next ((s.append b).respond .pp (.ok true))) := by
  cases h : s.full <;> simp [execWrite, State.queueWrite, byteOperand, h]

/-- Everything READ can do (R103, R104; 20_memory.md R47). -/
theorem execRead_cases (s : State) :
    (s.empty = true ∧ execRead s = .next (s.respond .cp .nothing)) ∨
    (s.empty = false ∧ Memory.read s.cell (s.elemCell 0) = none ∧ execRead s = .next (s.raise (.uninitRead (s.elemCell 0)))) ∨
    (∃ b, s.empty = false ∧ Memory.read s.cell (s.elemCell 0) = some b ∧
      execRead s = .next (s.dropFront.respond .cp (.byte b))) := by
  rcases s.queueRead_cases with ⟨h, hr⟩ | ⟨h, hm, hr⟩ | ⟨b, h, hm, hr⟩
  all_goals simp_all [execRead, byteResponse]

/-- Everything PEEK can do (R106, R107; 20_memory.md R47). -/
theorem execPeek_cases (s : State) :
    (s.empty = true ∧ execPeek s = .next (s.respond .cp .nothing)) ∨
    (s.empty = false ∧ Memory.read s.cell (s.elemCell 0) = none ∧ execPeek s = .next (s.raise (.uninitRead (s.elemCell 0)))) ∨
    (∃ b, s.empty = false ∧ Memory.read s.cell (s.elemCell 0) = some b ∧ execPeek s = .next (s.respond .cp (.byte b))) := by
  rcases s.queueRead_cases with ⟨h, hr⟩ | ⟨h, hm, hr⟩ | ⟨b, h, hm, hr⟩
  all_goals simp_all [execPeek, byteResponse]

/-- Everything SNAPSHOT and ITERATE can do: a response, or the fault of a cell that holds `⊥`. -/
theorem execCopy_cases (s : State) (i : Instr) (hi : i = .iterate ∨ ∃ m, i = .snapshot m) :
    (∃ f, exec i s = .next (s.raise f)) ∨ (∃ bs, exec i s = .next (s.respond .cp (.bytes bs))) := by
  rcases hi with rfl | ⟨m, rfl⟩
  · simp only [exec, execIterate]
    cases s.readElems 0 s.len with
    | error f => exact .inl ⟨f, rfl⟩
    | ok bs => exact .inr ⟨bs, rfl⟩
  · simp only [exec, execSnapshot]
    cases s.snapshot (countOperand m) with
    | error f => exact .inl ⟨f, rfl⟩
    | ok bs => exact .inr ⟨bs, rfl⟩

/-! ## A READ inside PARSE -/

/-- Everything a READ inside PARSE can do (43_framer.md R156). -/
theorem State.parseRead_cases (s : State) (after : State → State) :
    (s.empty = true ∧ s.parseRead after = after s) ∨
    (s.empty = false ∧ Memory.read s.cell (s.elemCell 0) = none ∧ s.parseRead after = s.raise (.uninitRead (s.elemCell 0))) ∨
    (∃ b, s.empty = false ∧ Memory.read s.cell (s.elemCell 0) = some b ∧ s.parseRead after = after s.dropFront) := by
  rcases s.queueRead_cases with ⟨h, hr⟩ | ⟨h, hm, hr⟩ | ⟨b, h, hm, hr⟩
  all_goals simp_all [State.parseRead]

/-- A READ inside PARSE on a queue whose front is `b`. -/
theorem State.parseRead_of_front {s : State} (h : s.Cursors) {b : Byte} {bs : List Byte} (hf : s.FrontIs (b :: bs))
    (after : State → State) : s.parseRead after = after s.dropFront := by
  simp [State.parseRead, (State.queueRead_of_front h hf).1]

@[simp] theorem State.loadSnap_snap (s : State) (bs : List Byte) : (s.loadSnap bs).snap = bs := by
  simp [State.snap, State.loadSnap]

/-! ## The schedule does not enter what the other values say -/

@[simp] theorem State.withSched_snap (s : State) (es : List Event) : (s.withSched es).snap = s.snap := rfl
@[simp] theorem State.withSched_parsedPacket (s : State) (es : List Event) : (s.withSched es).parsedPacket = s.parsedPacket := rfl
@[simp] theorem State.withSched_elems (s : State) (es : List Event) : (s.withSched es).elems = s.elems := rfl
@[simp] theorem State.withSched_len (s : State) (es : List Event) : (s.withSched es).len = s.len := rfl
@[simp] theorem State.withSched_empty (s : State) (es : List Event) : (s.withSched es).empty = s.empty := rfl
@[simp] theorem State.withSched_full (s : State) (es : List Event) : (s.withSched es).full = s.full := rfl
@[simp] theorem State.withSched_withSched (s : State) (es es' : List Event) : (s.withSched es).withSched es' = s.withSched es' := rfl

end Sys2Proof.Machine
end

