-- ==== Sys2Proof/Laws/Invariant.lean ====
section
/-! SUPPORT. What each shared operation keeps: the queue's part of the invariant, and the front of the queue. -/

namespace Sys2Proof.Machine

/-- The queue's part of the invariant: it reads the parameters, the cursors and the cells only. -/
structure State.QueueInv (s : State) : Prop where
  par_wf : s.par.wf = true
  rd_lt : s.rd < s.par.queueN
  wr_lt : s.wr < s.par.queueN
  cell_wf : Memory.wf s.cell
  cell_lt : ∀ c ∈ s.cell, c.1 < s.par.queueN
  occupied : ∀ i < s.par.queueN, (Memory.read s.cell i).isSome = decide ((i + s.par.queueN - s.rd) % s.par.queueN < s.len)

theorem Inv.queue {s : State} (h : Inv s) : s.QueueInv :=
  ⟨h.par_wf, h.rd_lt, h.wr_lt, h.cell_wf, h.cell_lt, h.occupied⟩

theorem State.QueueInv.cursors {s : State} (h : s.QueueInv) : s.Cursors := ⟨h.rd_lt, h.wr_lt⟩

/-- An update of other fields keeps it. -/
theorem State.QueueInv.congr {s t : State} (h : s.QueueInv) (hp : t.par = s.par) (hr : t.rd = s.rd) (hw : t.wr = s.wr)
    (hc : t.cell = s.cell) : t.QueueInv := by
  have hl : t.len = s.len := by simp only [State.len, hp, hr, hw]
  exact ⟨hp ▸ h.par_wf, by rw [hp, hr]; exact h.rd_lt, by rw [hp, hw]; exact h.wr_lt, hc ▸ h.cell_wf,
    by rw [hp, hc]; exact h.cell_lt, by rw [hp, hc, hr, hl]; exact h.occupied⟩

/-- Every element of the queue is a byte: no MemRead of an element finds `⊥` (10_state.md R23). -/
theorem State.QueueInv.read_elem {s : State} (h : s.QueueInv) {j : Nat} (hj : j < s.len) :
    (Memory.read s.cell (s.elemCell j)).isSome = true := by
  have hlt := State.len_lt h.cursors
  have h1 := h.rd_lt
  have hcell := State.elemCell_eq h.cursors (show j < s.par.queueN by omega)
  rw [h.occupied _ (by rw [hcell]; split <;> omega), decide_eq_true_eq, hcell, mod_of_lt_two_mul (by split <;> omega)]
  split <;> split <;> omega

/-- The contents are bytes. -/
theorem State.QueueInv.holds {s : State} (h : s.QueueInv) : ∃ q, s.Holds q := by
  refine ⟨s.elems.filterMap id, ?_⟩
  have hall : ∀ x ∈ s.elems, x.isSome = true := by
    intro x hx
    obtain ⟨j, hj, rfl⟩ := List.mem_map.1 hx
    exact h.read_elem (List.mem_range.1 hj)
  unfold State.Holds
  generalize s.elems = l at hall
  induction l with
  | nil => rfl
  | cons x l ih =>
    obtain ⟨b, rfl⟩ := Option.isSome_iff_exists.1 (hall x (by simp))
    simpa using ih fun y hy => hall y (by simp [hy])

/-- A WRITE that succeeds keeps it. -/
theorem State.QueueInv.append {s : State} (h : s.QueueInv) (hf : s.full = false) (b : Byte) : (s.append b).QueueInv := by
  have h1 := h.rd_lt
  have h2 := h.wr_lt
  have hc := h.cursors
  refine ⟨h.par_wf, (State.append_cursors hc b).rd_lt, (State.append_cursors hc b).wr_lt, Memory.write_wf h.cell_wf _ _, ?_, ?_⟩
  · intro c hc'
    rcases Memory.index_of_mem_write hc' with he | hm
    · rw [he, State.tailCell_eq hc]; exact h2
    · exact h.cell_lt c hm
  · intro i hi
    have hi' : i < s.par.queueN := hi
    have hlen : s.len = (s.wr + s.par.queueN - s.rd) % s.par.queueN := rfl
    simp only [State.append_par, State.append_rd, State.append_cell, State.append_len hc hf, Memory.read_write,
      State.tailCell_eq hc]
    by_cases hw : i = s.wr
    · subst hw; simp [hlen]
    · rw [if_neg hw, h.occupied i hi']
      congr 1
      rw [hlen, mod_of_lt_two_mul (by omega), mod_of_lt_two_mul (by omega), eq_iff_iff]
      split <;> split <;> omega

/-- A READ that succeeds keeps it. -/
theorem State.QueueInv.dropFront {s : State} (h : s.QueueInv) (he : s.empty = false) : s.dropFront.QueueInv := by
  have h1 := h.rd_lt
  have h2 := h.wr_lt
  have hc := h.cursors
  have hl := State.dropFront_len hc he
  refine ⟨h.par_wf, (State.dropFront_cursors hc).rd_lt, (State.dropFront_cursors hc).wr_lt, Memory.clear_wf h.cell_wf _,
    fun c hm => h.cell_lt c (Memory.mem_of_mem_clear hm), ?_⟩
  intro i hi
  have hi' : i < s.par.queueN := hi
  have hlt := State.len_lt hc
  simp only [State.dropFront_par, State.dropFront_rd, State.dropFront_cell, Memory.read_clear h.cell_wf, State.elemCell_zero hc,
    State.cursorNext_eq h1]
  by_cases hr : i = s.rd
  · subst hr
    rw [if_pos rfl, eq_comm, Option.isSome_none, decide_eq_false_iff_not, mod_of_lt_two_mul (by split <;> omega)]
    split <;> split <;> omega
  · rw [if_neg hr, h.occupied i hi']
    congr 1
    rw [mod_of_lt_two_mul (by omega), mod_of_lt_two_mul (by split <;> omega), eq_iff_iff]
    split <;> split <;> split <;> omega

/-! ## The front of the queue -/

theorem State.FrontIs.length_le {s : State} {bs : List Byte} (h : s.FrontIs bs) : bs.length ≤ s.len := by
  have := congrArg List.length h
  simp at this
  exact this

/-- A byte sequence at the front of the contents. -/
theorem State.Holds.frontIs {s : State} {bs q : List Byte} (h : s.Holds (bs ++ q)) : s.FrontIs bs := by
  rw [State.FrontIs, h, ← List.map_take, List.take_left]

theorem State.FrontIs.congr {s t : State} {bs : List Byte} (h : s.FrontIs bs) (he : t.elems = s.elems) : t.FrontIs bs := by
  rw [State.FrontIs, he]; exact h

/-- Bytes at the front stay there when the producer appends (20_memory.md R57). -/
theorem State.FrontIs.append {s : State} {bs : List Byte} (h : s.FrontIs bs) (hc : s.Cursors) (hf : s.full = false) (b : Byte) :
    (s.append b).FrontIs bs := by
  have hl := h.length_le
  rw [State.FrontIs, State.append_elems hc hf, List.take_append_of_le_length (by simpa using hl)]
  exact h

end Sys2Proof.Machine
end

