-- ==== Sys2Proof/Laws/PerInstr.lean ====
section
/-! SUPPORT. What the encoding of every operation has: reserved bits 0, an `OP` of 0x1 to 0x7, and its own port (30_encoding.md R73, R74). -/

namespace Sys2Proof.Laws.EncodeFields

/-- The fields of an operation's word. -/
def Statement (i : Instr) : Prop :=
  rsvField (encode i) = 0 ∧ 1 ≤ (opField (encode i)).toNat ∧ (opField (encode i)).toNat ≤ 7 ∧ wordPort (encode i) = i.port

theorem of_commandWord {i : Instr} {op : BitVec 4} {arg : Byte} (h : encode i = commandWord op arg) (h1 : 1 ≤ op.toNat)
    (h7 : op.toNat ≤ 7) (hp : (if op = 0x1 then Port.pp else Port.cp) = i.port) : Statement i := by
  unfold Statement wordPort
  rw [h, rsvField_commandWord, opField_commandWord]
  exact ⟨rfl, h1, h7, hp⟩

theorem write (b : Byte) : Statement (.write b) := of_commandWord rfl (by decide) (by decide) rfl
theorem read : Statement .read := of_commandWord rfl (by decide) (by decide) rfl
theorem peek : Statement .peek := of_commandWord rfl (by decide) (by decide) rfl
theorem snapshot (m : Byte) : Statement (.snapshot m) := of_commandWord rfl (by decide) (by decide) rfl
theorem iterate : Statement .iterate := of_commandWord rfl (by decide) (by decide) rfl
theorem len : Statement .len := of_commandWord rfl (by decide) (by decide) rfl
theorem parse : Statement .parse := of_commandWord rfl (by decide) (by decide) rfl

end Sys2Proof.Laws.EncodeFields
end

