-- ==== Sys2Proof/Tests/Slice0.lean ====
section
/-! SUPPORT. Small tests, each from the spec's vectors (95_test_vectors.md), and for every statement with hypotheses a concrete
state and operands that meet them all. -/

namespace Sys2Proof.Tests

open Sys2Proof.Machine

/-! ## Helpers -/

/-- `QUEUE_N = 8`, the vectors' small queue. -/
def small : Params := { Params.default with queueN := 8 }

/-- A block with `QUEUE_N = 8` whose cursors start at `c` and whose queue holds `q`. -/
def holding (c : Nat) (q : List Byte) : State :=
  q.foldl State.append { State.resetWith small with rd := c, wr := c }

/-- The state after an answer `next`, or none. -/
def after : Host.Outcome State Fault Refusal → Option State
  | .next t => some t
  | _ => none

/-- One field after an operation. -/
def field {α : Type} (f : State → α) (i : Instr) (s : State) : Option α := (after (exec i s)).map f

/-- One field after one step with the given event next. -/
def stepField {α : Type} (f : State → α) (e : Event) (s : State) : Option α := (after (step (s.withSched [e]))).map f

/-- A PARSE in progress on the default block: the engine's state, its snapshot `f` at the front of the queue, and the working values
that snapshot's header gives. -/
def parsing (m : Fsm) (f : List Byte) (remaining : Nat) (q : List Byte) : State :=
  { q.foldl State.append (State.resetWith Params.default) with
    fsm := m, cbusy := true, cpReq := some (encode .parse)
    snapBuf := f ++ List.replicate (snapMax - f.length) 0, snapCnt := f.length
    work := { ParseRegs.reset with
      c1 := f.length, c2 := f.length, k := some 0, dl := frameDL f, ol := frameOL f, pt := framePT f
      fl := frameLength (frameDL f) (frameOL f), remaining := remaining } }

/-- Vector F10's frame. -/
def frameF10 : List Byte := [0x55, 0x00, 0x02, 0x00, 0x01, 0xD1, 0xAA, 0xBB, 0xB2]

/-- The module-ready frame of vector S13. -/
def frameReady : List Byte := [0x55, 0x00, 0x01, 0x00, 0x04, 0x77, 0x04, 0x1C]

/-! ## WellFormed: a term each check refuses, and one it accepts -/

theorem test_wf_queueN_too_small : Params.wf { Params.default with queueN := 7 } = false := by decide
theorem test_wf_queueN_too_large : Params.wf { Params.default with queueN := 65537 } = false := by decide
theorem test_wf_queueN_bounds : Params.wf small = true ∧ Params.wf { Params.default with queueN := 65536 } = true := by decide
theorem test_wf_write_on_cp : Instr.wfOn (.write 0x41) .cp = false := by decide
theorem test_wf_read_on_pp : Instr.wfOn .read .pp = false := by decide
theorem test_wf_write_on_pp : Instr.wfOn (.write 0x41) .pp = true := by decide
theorem test_wf_packet_too_long : Packet.wf ⟨0, [], List.replicate 256 0⟩ = false := by decide +kernel

/-! ## Decode: words written out from 30_encoding.md R73 and R74 -/

theorem test_decode_write : decode .pp 0b0001000001000001 = .ok (.write 0x41) := by decide
theorem test_decode_read : decode .cp 0b0010000000000000 = .ok .read := by decide
theorem test_decode_peek : decode .cp 0b0011000000000000 = .ok .peek := by decide
theorem test_decode_snapshot : decode .cp 0b0100000010000000 = .ok (.snapshot 128) := by decide
theorem test_decode_iterate : decode .cp 0b0101000000000000 = .ok .iterate := by decide
theorem test_decode_len : decode .cp 0b0110000000000000 = .ok .len := by decide
theorem test_decode_parse : decode .cp 0b0111000000000000 = .ok .parse := by decide
theorem test_decode_rejects : decode .cp 0x1041 = .error .wrongPort ∧ decode .cp 0x2001 = .error .argNotZero ∧
    decode .cp 0x2100 = .error .reservedBits ∧ decode .pp 0xF0FF = .error .unknownOp := by decide
theorem test_encode_assembly : encode (.write 0x41) = 0x1041 ∧ encode (.snapshot 7) = 0x4007 ∧ encode .parse = 0x7000 := by decide
theorem test_table_rows_do_not_overlap : opcodeTable.Pairwise (fun r r' => ¬(r.port = r'.port ∧ r.pattern &&& r'.mask = r'.pattern &&& r.mask)) := by
  decide
theorem test_table_word : decodeTableWord 16 0x10A7 = some (.write 0xA7) ∧ decodeTableWord 16 0x4003 = some (.snapshot 3) ∧
    decodeTableWord 16 0x8000 = none := by decide

/-! ## Assembly text (30_encoding.md R79, R80) -/

theorem test_asm_write : asmLine "P: WRITE 0x41          ; 0x1041".toList = some (.issue .pp (.write 0x41)) := by decide
theorem test_asm_snapshot : asmLine "C: SNAPSHOT 7".toList = some (.issue .cp (.snapshot 7)) := by decide
theorem test_asm_pseudos : asmLine "P: WRITES 0x13, 0x55".toList = some (.writes [0x13, 0x55]) ∧
    asmLine "C: CONSUME 2".toList = some (.consume 2) ∧ asmLine "RX 0x55, 16".toList = some (.rxs [0x55, 16]) := by decide
theorem test_asm_rejects : asmLine "P: WRITE 256".toList = none ∧ asmLine "C: JUMP".toList = none := by decide
theorem test_asm_consume : assemble [.consume 2] = [.request .cp 0x2000, .serve .cp, .request .cp 0x2000, .serve .cp] := by decide

/-! ## CRC8 and frames (95_test_vectors.md section 2.1) -/

theorem test_crc_check_value : crc8 .default [0x31, 0x32, 0x33, 0x34, 0x35, 0x36, 0x37, 0x38, 0x39] = 0xF4 := by decide +kernel
theorem test_crc_order : crc8 .default [0x01, 0x02] = 0x1B ∧ crc8 .default [0x02, 0x01] = 0x2D := by decide +kernel
theorem test_crc_header : crc8 .default [0x00, 0x02, 0x00, 0x05] = 0xCD ∧ crc8 .default [0x01, 0x55, 0x00, 0x02] = 0xFC := by decide +kernel
theorem test_reply : reply .default = [0x55, 0x00, 0x02, 0x00, 0x05, 0xCD, 0x3E, 0x01, 0x28] := by decide +kernel
theorem test_frame_f13 : frameBytes .default ⟨0x0A, [0x01, 0x02, 0x03], [0x55, 0xFE]⟩ =
    [0x55, 0x00, 0x03, 0x02, 0x0A, 0xA1, 0x01, 0x02, 0x03, 0x55, 0xFE, 0x4A] := by decide +kernel
theorem test_cursorW : Params.cursorW small = 3 ∧ Params.cursorW .default = 8 ∧ Params.cursorW { small with queueN := 129 } = 8 := by decide +kernel

/-- The first four and the last two rows of the table `T` of 40_crc8.md. -/
def tableT : List Byte :=
  [0x00, 0x07, 0x0E, 0x09, 0x1C, 0x1B, 0x12, 0x15, 0x38, 0x3F, 0x36, 0x31, 0x24, 0x23, 0x2A, 0x2D] ++
  [0x70, 0x77, 0x7E, 0x79, 0x6C, 0x6B, 0x62, 0x65, 0x48, 0x4F, 0x46, 0x41, 0x54, 0x53, 0x5A, 0x5D]

theorem test_crc_table : (List.range 32).map (fun i => crc8Step 0x07 0 (BitVec.ofNat 8 i)) = tableT := by decide +kernel
theorem test_crc_table_last_row : crc8Step 0x07 0 0xF0 = 0xDE ∧ crc8Step 0x07 0 0xF7 = 0xCB ∧ crc8Step 0x07 0 0xFF = 0xF3 := by decide +kernel

/-! ## The operations (95_test_vectors.md section 2.3), at most two tests each -/

/-- RD = WR = 7, WRITE 41: cell 7, WR wraps to 0. -/
theorem test_write_wraps : field (fun t => (t.rd, t.wr, Memory.read t.cell 7, t.ppRsp)) (.write 0x41) (holding 7 []) =
    some (7, 0, some 0x41, some (.ok true)) := by decide
/-- RD = 3, WR = 2, seven bytes: full across the wrap. -/
theorem test_write_full : field (fun t => (t.rd, t.wr, t.cell, t.ppRsp)) (.write 0x99) (holding 3 [1, 2, 3, 4, 5, 6, 7]) =
    some (3, 2, (holding 3 [1, 2, 3, 4, 5, 6, 7]).cell, some (.ok false)) := by decide
/-- RD = 7, WR = 1: the oldest byte is in cell 7, RD wraps to 0. -/
theorem test_read_wraps : field (fun t => (t.rd, t.wr, Memory.read t.cell 7, t.cpRsp)) .read (holding 7 [0x0A, 0x0B]) =
    some (0, 1, none, some (.byte 0x0A)) := by decide
theorem test_read_empty : field (fun t => (t.rd, t.cpRsp)) .read (holding 0 []) = some (0, some .nothing) := by decide
theorem test_peek : field (fun t => (t.rd, t.cell, t.cpRsp)) .peek (holding 0 [0x41, 0x42]) =
    some (0, [(0, 0x41), (1, 0x42)], some (.byte 0x41)) := by decide
theorem test_peek_empty : field (fun t => t.cpRsp) .peek (holding 0 []) = some (some .nothing) := by decide
/-- RD = 6, WR = 1: cells 6, 7, 0. -/
theorem test_snapshot_wraps : field (fun t => (t.rd, t.wr, t.cpRsp)) (.snapshot 3) (holding 6 [1, 2, 3]) =
    some (6, 1, some (.bytes [1, 2, 3])) := by decide
theorem test_snapshot_bounded : field (fun t => t.cpRsp) (.snapshot 2) (holding 0 [1, 2, 3]) = some (some (.bytes [1, 2])) := by decide
theorem test_iterate : field (fun t => (t.rd, t.cpRsp)) .iterate (holding 6 [1, 0x55, 2]) = some (6, some (.bytes [1, 0x55, 2])) := by decide
theorem test_len_wraps : field (fun t => t.cpRsp) .len (holding 6 [1, 2, 3]) = some (some (.count 3)) := by decide
theorem test_parse_starts : field (fun t => (t.fsm, t.cbusy, t.cpRsp)) .parse (holding 0 []) = some (.snap1, true, none) := by decide
theorem test_uninit_read : field (fun t => (t.fault, t.cpRsp)) .read { holding 0 [] with rd := 2 } =
    some (some (.uninitRead 2), none) := by decide

/-! ## Steps (95_test_vectors.md sections 2.2, 2.4, 2.5, 2.6) -/

theorem test_step_runs_word_from_reset :
    (after (step (State.reset.withFetchWord 16 0x1041))).map (fun t => (t.cell, t.wr, t.ppRsp)) = some ([(0, 0x41)], 1, some (.ok true)) := by
  decide
theorem test_illegal_word : stepField (fun t => (t.cpRsp, t.cbusy, t.cell)) (.serve .cp)
    { holding 0 [0x41] with cpReq := some 0x2001, cbusy := true } = some (some .illegal, false, [(0, 0x41)]) := by decide
theorem test_rx_lost : stepField (fun t => t.rxh) (.rx 0x66) { holding 0 [] with rxh := [0x55] } = some [0x55] := by decide
theorem test_rxService : stepField (fun t => (t.rxh, t.cell)) .rxService { holding 0 [] with rxh := [0x55] } = some ([], [(0, 0x55)]) := by decide
theorem test_rxService_full : stepField (fun t => (t.rxh, t.wr)) .rxService { holding 0 [1, 2, 3, 4, 5, 6, 7] with rxh := [0x55] } =
    some ([], 7) := by decide
theorem test_txSink : stepField (fun t => t.txPend) .txSink { holding 0 [] with txPend := [0x01, 0x28] } = some [0x28] := by decide
/-- F2: no sync byte in the snapshot. -/
theorem test_scan_no_sync : stepField (fun t => (t.fsm, t.work.k, t.work.remaining)) (.serve .cp) (parsing .scan [1, 2, 3] 0 [1, 2, 3]) =
    some (.dropAll, none, 3) := by decide
/-- F19: the first of two sync bytes. -/
theorem test_scan_first_sync : stepField (fun t => (t.fsm, t.work.k, t.work.remaining)) (.serve .cp)
    (parsing .scan [0x10, 0x55, 0x01, 0x55] 0 [0x10, 0x55, 0x01, 0x55]) = some (.dropPrefix, some 1, 1) := by decide
/-- F6: the header CRC `D1` corrupted. -/
theorem test_hdr_mismatch : stepField (fun t => t.fsm) (.serve .cp) (parsing .hdr [0x55, 0, 2, 0, 1, 0x2E, 0xAA, 0xBB, 0xB2] 0 []) =
    some .dropOne := by decide +kernel
/-- F7: one byte short. -/
theorem test_len_short : stepField (fun t => (t.fsm, t.work.out, t.work.fl)) (.serve .cp) (parsing .len (frameF10.take 8) 0 []) =
    some (.done, .short, 9) := by decide
/-- F15: `FL = 129` is oversize. -/
theorem test_len_oversize : stepField (fun t => (t.fsm, t.work.fl)) (.serve .cp) (parsing .len [0x55, 0x00, 0x7A, 0x00, 0x01, 0xE7, 0] 0 []) =
    some (.dropOne, 129) := by decide
/-- F10 and F9: the data CRC. -/
theorem test_data : stepField (fun t => t.fsm) (.serve .cp) (parsing .data frameF10 0 []) = some .commit ∧
    stepField (fun t => t.fsm) (.serve .cp) (parsing .data (frameF10.take 8 ++ [0x4D]) 0 []) = some .dropOne := by decide +kernel
/-- F13: data and optional data are both kept. -/
theorem test_commit_packet : stepField (fun t => t.work.out) (.serve .cp)
    (parsing .commit [0x55, 0x00, 0x03, 0x02, 0x0A, 0xA1, 0x01, 0x02, 0x03, 0x55, 0xFE, 0x4A] 0 []) =
    some (.packet ⟨0x0A, [0x01, 0x02, 0x03], [0x55, 0xFE]⟩) := by decide
/-- S13: a module-ready event emits the reply. -/
theorem test_event_ready : stepField (fun t => (t.fsm, t.txPend)) (.serve .cp) (parsing .event frameReady 0 []) =
    some (.tx, [0x55, 0x00, 0x02, 0x00, 0x05, 0xCD, 0x3E, 0x01, 0x28]) := by decide +kernel
/-- An event with another code, and one without data, emit nothing (section 2.6). -/
theorem test_event_not_ready : stepField (fun t => (t.fsm, t.txPend)) (.serve .cp)
      (parsing .event [0x55, 0x00, 0x01, 0x00, 0x04, 0x77, 0x02, 0x0E] 0 []) = some (.done, []) ∧
    stepField (fun t => (t.fsm, t.txPend)) (.serve .cp) (parsing .event [0x55, 0x00, 0x00, 0x00, 0x04, 0x1C, 0x00] 0 []) = some (.done, []) := by
  decide +kernel
theorem test_reset_in_fault : stepField (fun t => (t.fault, t.par.queueN)) .reset { holding 0 [1] with fault := some (.uninitRead 3) } =
    some (none, 8) := by decide
theorem test_fault_stops : stepField (fun t => t.rxh) (.rx 1) { holding 0 [1] with fault := some (.uninitRead 3) } = none := by decide
theorem test_reset_is_final : State.reset.final = true := by decide

/-! ## Witnesses: for each statement with hypotheses, a state and operands that meet them all -/

/-- A port with a request outstanding. -/
def requested (s : State) (p : Port) (i : Instr) : State := s.accept p (encode i)

/-- `QUEUE_N = 16`: room for the module-ready frame. -/
def mid : Params := { Params.default with queueN := 16 }

/-- A PARSE of a 16-cell block whose snapshot is the module-ready frame, with the queue holding `q`. -/
def readyParse (m : Fsm) (remaining : Nat) (q : List Byte) : State :=
  let s := parsing m frameReady remaining q
  { s with par := mid, work := { s.work with out := .packet ⟨0x04, [0x04], []⟩ } }

/-- The reply's last byte waits for the sink. -/
def waiting : State := { readyParse .tx 0 [] with txPend := [0x28], txLog := reply mid }

theorem witness_EncodeOfDecode : decode .cp 0x40FF = .ok (.snapshot 0xFF) ∧ decode .pp 0x1000 = .ok (.write 0) ∧
    decode .cp 0x7000 = .ok .parse := by decide
theorem witness_FrameLayout : Packet.wf ⟨0x04, List.replicate 257 0x55, List.replicate 255 1⟩ = true ∧ Packet.wf ⟨0, [], []⟩ = true := by
  decide +kernel
theorem witness_defaultCrc : Params.default.crcPoly = 0x07 ∧ Params.default.crcInit = 0x00 := by decide

theorem witness_StepRuns_producer :
    let s := { requested (holding 7 []) .pp (.write 0x41) with sched := [.serve .pp] }
    s.fault = none ∧ s.sched = .serve .pp :: [] ∧ (Port.pp = .cp → s.fsm = .idle) ∧ s.request .pp = some 0x1041 ∧
      decode .pp 0x1041 = .ok (.write 0x41) := by decide
theorem witness_StepRuns_consumer :
    let s := { requested (holding 7 [1]) .cp .parse with sched := [.serve .cp, .txSink] }
    s.fault = none ∧ s.sched = .serve .cp :: [.txSink] ∧ (Port.cp = .cp → s.fsm = .idle) ∧ s.request .cp = some 0x7000 ∧
      decode .cp 0x7000 = .ok .parse := by decide
theorem witness_IllegalWord :
    let s := { (State.resetWith small).accept .pp 0x7000 with sched := [.serve .pp] }
    let t := { (State.resetWith small).accept .cp 0x0000 with sched := [.serve .cp] }
    (s.fault = none ∧ s.sched = .serve .pp :: [] ∧ s.ppReq = some 0x7000 ∧ decode .pp 0x7000 = .error .wrongPort) ∧
    (t.fault = none ∧ t.sched = .serve .cp :: [] ∧ t.fsm = .idle ∧ t.cpReq = some 0x0000 ∧ decode .cp 0x0000 = .error .unknownOp) := by
  decide
theorem witness_PortTakes :
    let s := (State.resetWith small).withSched [.request .pp 0x1041]
    let t := (requested (State.resetWith small) .cp .len).withSched [.request .cp 0x2000]
    (s.fault = none ∧ s.sched = .request .pp 0x1041 :: [] ∧ s.pbusy = false) ∧
    (t.fault = none ∧ t.sched = .request .cp 0x2000 :: [] ∧ t.cbusy = true) := by decide
theorem witness_NoAgentSteps :
    let s := { holding 0 [] with fault := some (.uninitRead 0), sched := [.serve .cp] }
    s.fault = some (.uninitRead 0) ∧ s.sched.head? ≠ some .reset ∧ State.reset.sched.head? ≠ some .reset := by decide
theorem witness_IdleAgents :
    let s := State.resetWith small
    s.fault = none ∧ s.sched = [] ∧ (s.withSched [.serve .pp]).sched = .serve .pp :: [] ∧ s.ppReq = none ∧ s.cpReq = none ∧
      s.fsm = .idle ∧ s.rxh = [] ∧ s.txPend = [] := by decide

theorem witness_Write :
    let s := holding 2 [1, 2, 3, 4, 5, 6]
    s.wr = 0 ∧ s.wr < s.par.queueN ∧ (s.wr + 1) % s.par.queueN ≠ s.rd := by decide
theorem witness_WriteFull :
    let s := holding 0 [1, 2, 3, 4, 5, 6, 7]
    s.wr = 7 ∧ (s.wr + 1) % s.par.queueN = s.rd := by decide
/-- The last cell, before the wrap: READ, PEEK. -/
theorem witness_Read :
    let s := holding 7 [0x0A]
    Memory.wf s.cell ∧ s.rd < s.par.queueN ∧ s.rd ≠ s.wr ∧ Memory.read s.cell s.rd = some 0x0A := by decide
/-- Six of seven bytes queued, across the wrap, and both ports ready. -/
theorem witness_WrittenByte : Inv (holding 5 [1, 2, 3, 4, 5, 6]) ∧ (holding 5 [1, 2, 3, 4, 5, 6]).pbusy = false ∧
    (holding 5 [1, 2, 3, 4, 5, 6]).cbusy = false ∧ (holding 5 [1, 2, 3, 4, 5, 6]).Holds [1, 2, 3, 4, 5, 6] ∧
    (holding 5 [1, 2, 3, 4, 5, 6]).full = false :=
  ⟨by constructor <;> first | decide +kernel | (constructor <;> decide +kernel), by decide, by decide, by unfold State.Holds; decide, by decide⟩
theorem witness_Repeat : ∀ i ∈ [Instr.peek, .snapshot 2, .iterate, .len],
    field (fun t => t.fault) i (holding 7 [1, 2, 3]) = some none := by decide
theorem witness_Empty : (holding 7 []).rd = (holding 7 []).wr := by decide
theorem witness_Holds : (holding 6 [1, 2, 3]).Holds [1, 2, 3] ∧ (holding 6 []).Holds [] ∧
    (holding 1 [1, 2, 3, 4, 5, 6, 7]).Holds [1, 2, 3, 4, 5, 6, 7] := by
  unfold State.Holds; decide
theorem witness_cursors :
    let s := holding 7 [1, 2]
    s.rd < s.par.queueN ∧ s.wr < s.par.queueN ∧ s.wr < s.rd := by decide
/-- A window cell emptied by hand: no run reaches this state. -/
theorem witness_UninitRead :
    let s := (holding 7 [1, 2]).memClear 7
    s.rd < s.par.queueN ∧ s.rd ≠ s.wr ∧ Memory.read s.cell s.rd = none := by decide
theorem witness_UninitCopy :
    let s := (holding 7 [1, 2, 3]).memClear 0
    1 < s.len ∧ Memory.read s.cell (s.elemCell 1) = none ∧
      (∀ i < 1, (Memory.read s.cell (s.elemCell i)).isSome = true) ∧ 1 < (2 : Byte).toNat := by decide
theorem witness_AppendTake :
    let s := holding 2 [1, 2, 3, 4, 5, 6]
    s.rd < s.par.queueN ∧ s.wr < s.par.queueN ∧ s.Holds (1 :: [2, 3, 4, 5, 6]) ∧ s.full = false := by
  unfold State.Holds; decide

theorem witness_Rx :
    let s := (State.resetWith small).withSched [.rx 0x55]
    s.fault = none ∧ s.sched = .rx 0x55 :: [] ∧ s.rxh.length < s.par.rxDepth := by decide
theorem witness_RxService :
    let s := { holding 2 [1, 2] with rxh := [0x55], sched := [.rxService] }
    let t := { holding 2 [1, 2, 3, 4, 5, 6, 7] with rxh := [0x55], sched := [.rxService] }
    (s.fault = none ∧ s.sched = .rxService :: [] ∧ s.rxh = 0x55 :: [] ∧ s.pbusy = false ∧ s.rd < s.par.queueN ∧
      s.wr < s.par.queueN ∧ s.Holds [1, 2] ∧ s.full = false) ∧
    (t.fault = none ∧ t.sched = .rxService :: [] ∧ t.rxh = 0x55 :: [] ∧ t.pbusy = false ∧ t.rd < t.par.queueN ∧
      t.wr < t.par.queueN ∧ t.Holds [1, 2, 3, 4, 5, 6, 7] ∧ t.full = true) ∧
    ({ s with pbusy := true }.pbusy = true ∧ { s with pbusy := true }.sched = .rxService :: [] ∧ ({ s with pbusy := true } : State).Holds [1, 2]) := by
  unfold State.Holds; decide
theorem witness_Sink : waiting.fault = none ∧ (waiting.withSched [.txSink]).sched = .txSink :: [] ∧ waiting.txPend = 0x28 :: [] := by
  decide
theorem witness_CrcChange : Params.default.crcPoly = 0x07 ∧ (0x00 : Byte) ≠ 0x01 := by decide

/-! PARSE, transition by transition. -/

/-- A step of the engine in state `m` is next. -/
def engine (m : Fsm) (f : List Byte) (remaining : Nat) (q : List Byte) : State := (parsing m f remaining q).withSched [.serve .cp]

theorem witness_Snapshots :
    let s := engine .snap1 [] 0 [1, 2]
    let e := engine .snap1 [] 0 []
    let t := engine .snap2 [0x55] 0 [0x55, 0, 0, 0, 4, 0x1C]
    (s.fault = none ∧ s.sched = .serve .cp :: [] ∧ s.fsm = .snap1 ∧ s.Holds [1, 2]) ∧ (e.fsm = .snap1 ∧ e.Holds []) ∧
    (t.fault = none ∧ t.sched = .serve .cp :: [] ∧ t.fsm = .snap2 ∧ t.Holds [0x55, 0, 0, 0, 4, 0x1C]) := by
  unfold State.Holds; decide
theorem witness_Scan :
    let s := engine .scan [1, 2] 0 [1, 2]
    let t := engine .scan [1, 0x55] 0 [1, 0x55]
    (s.fault = none ∧ s.sched = .serve .cp :: [] ∧ s.fsm = .scan ∧ syncByte ∉ s.snap) ∧
    (t.fault = none ∧ t.sched = .serve .cp :: [] ∧ t.fsm = .scan ∧ t.snap[1]? = some syncByte ∧ ∀ j < 1, t.snap[j]? ≠ some syncByte) := by
  decide
theorem witness_ParseReads :
    let s := engine .dropPrefix [1, 0x55] 1 [1, 0x55]
    let t := engine .commit frameReady 0 []
    (s.fault = none ∧ s.sched = .serve .cp :: [] ∧ s.rd < s.par.queueN ∧ s.wr < s.par.queueN ∧ s.fsm = .dropPrefix ∧
      s.work.remaining = 0 + 1 ∧ s.Holds (1 :: [0x55])) ∧
    (engine .dropAll [1] 1 [1]).Holds (1 :: []) ∧ (engine .commit frameReady 8 frameReady).Holds (0x55 :: frameReady.tail) ∧
    (t.fault = none ∧ t.fsm = .commit ∧ t.work.remaining = 0) ∧
    ((engine .dropAll [1] 0 []).work.remaining = 0 ∧ (engine .dropPrefix [0x55] 0 [0x55]).work.remaining = 0) := by
  unfold State.Holds; decide
theorem witness_HeaderDrop :
    let s := engine .hdr frameReady 0 frameReady
    let t := engine .dropOne [0x55, 0, 0, 0, 0, 1, 0] 0 [0x55, 0, 0, 0, 0, 1, 0]
    (s.fault = none ∧ s.sched = .serve .cp :: [] ∧ s.rd < s.par.queueN ∧ s.wr < s.par.queueN ∧ s.fsm = .hdr) ∧
    (t.fault = none ∧ t.sched = .serve .cp :: [] ∧ t.rd < t.par.queueN ∧ t.wr < t.par.queueN ∧ t.fsm = .dropOne ∧
      t.Holds (0x55 :: [0, 0, 0, 0, 1, 0])) := by
  unfold State.Holds; decide
theorem witness_LenDataEventTxDone :
    ∀ m ∈ [Fsm.len, .data, .event, .tx, .done], let s := engine m frameReady 0 []
      s.fault = none ∧ s.sched = .serve .cp :: [] ∧ s.fsm = m := by decide

/-! The invariant. -/

theorem witness_Inv_wrapped : Inv (holding 6 [1, 2, 3, 4, 5, 6, 7]) := by constructor <;> first | decide +kernel | (constructor <;> decide +kernel)
theorem witness_ResetInv : Params.wf small = true ∧ Params.wf .default = true := by decide
theorem witness_Inv_parse : Inv (requested (holding 6 [1, 0x55]) .cp .parse) ∧ (requested (holding 6 [1, 0x55]) .cp .parse).fsm = .idle ∧
    (requested (holding 6 [1, 0x55]) .cp .parse).cpReq = some (encode .parse) ∧ (requested (holding 6 [1, 0x55]) .cp .parse).Holds [1, 0x55] :=
  ⟨by constructor <;> first | decide +kernel | (constructor <;> decide +kernel), by decide, by decide, by unfold State.Holds; decide⟩
theorem witness_Capacity : Inv (holding 6 [1, 2, 3, 4, 5, 6, 7]) ∧ (holding 6 [1, 2, 3, 4, 5, 6, 7]).Holds [1, 2, 3, 4, 5, 6, 7] :=
  ⟨witness_Inv_wrapped, by unfold State.Holds; decide⟩

/-- A queue with a byte to drain. -/
def draining : State := { holding 6 [1, 2] with rxh := [0x55] }

theorem witness_Drain : Inv draining ∧ draining.pbusy = false ∧ draining.Holds [1, 2] ∧
    [1, 2].length + draining.rxh.length ≤ draining.par.queueN - 1 :=
  ⟨by constructor <;> first | decide +kernel | (constructor <;> decide +kernel), by decide, by unfold State.Holds; decide, by decide⟩

/-- `parsing` on the small block. -/
def smallParse (m : Fsm) (f : List Byte) (k remaining : Nat) (q : List Byte) : State :=
  let s := parsing m f remaining q
  { s with par := small, work := { s.work with k := some k } }

theorem witness_ReadsSnapshot_prefix : Inv (smallParse .dropPrefix [1, 0x55] 1 1 [1, 0x55]) ∧
    (smallParse .dropPrefix [1, 0x55] 1 1 [1, 0x55]).work.k = some 1 ∧ (smallParse .dropPrefix [1, 0x55] 1 1 [1, 0x55]).work.remaining = 0 + 1 :=
  ⟨by constructor <;> first | decide +kernel | (constructor <;> decide +kernel), by decide, by decide⟩
theorem witness_ReadsSnapshot_all : ∃ s : State, Inv s ∧ s.fsm = .dropAll ∧ s.work.remaining = 1 + 1 :=
  ⟨{ smallParse .dropAll [1, 2] 0 2 [1, 2] with work.k := none }, by constructor <;> first | decide +kernel | (constructor <;> decide +kernel), by decide, by decide⟩
theorem witness_ReadsSnapshot_one : Inv (smallParse .dropOne [0x55, 0, 0, 0, 0, 1, 0] 0 0 [0x55, 0, 0, 0, 0, 1, 0]) ∧
    (smallParse .dropOne [0x55, 0, 0, 0, 0, 1, 0] 0 0 [0x55, 0, 0, 0, 0, 1, 0]).fsm = .dropOne :=
  ⟨by constructor <;> first | decide +kernel | (constructor <;> decide +kernel), by decide⟩
theorem witness_ReadsSnapshot_commit : Inv (readyParse .commit 8 frameReady) ∧ (readyParse .commit 8 frameReady).fsm = .commit ∧
    (readyParse .commit 8 frameReady).work.remaining = 7 + 1 :=
  ⟨by constructor <;> first | decide +kernel | (constructor <;> decide +kernel), by decide, by decide⟩
theorem witness_Tx : Inv waiting ∧ waiting.fsm = .tx :=
  ⟨by constructor <;> first | decide +kernel | (constructor <;> decide +kernel), by decide⟩

/-! Steps and runs. -/

theorem witness_step_inv : ∃ s t : State, Inv s ∧ s.fsm = .tx ∧ step s = .next t :=
  ⟨waiting.withSched [.txSink], { waiting with txPend := [] },
    by constructor <;> first | decide +kernel | (constructor <;> decide +kernel), rfl, rfl⟩
theorem witness_fifo : Inv (draining.withSched [.rxService]) ∧ (draining.withSched [.rxService]).Holds [1, 2] ∧
    stepField (fun t => t.elems) .rxService draining = some [some 1, some 2, some 0x55] :=
  ⟨by constructor <;> first | decide +kernel | (constructor <;> decide +kernel), by unfold State.Holds; decide, by decide⟩
theorem witness_owner :
    (after (step ((requested (holding 7 [1]) .cp .read).withSched [.serve .cp]))).map (fun t => (t.rd, t.wr)) = some (0, 0) ∧
    Event.serve .cp ≠ .reset := by decide
theorem witness_stays : Event.serve .cp ∉ [Event.rx 1, .rxService, .serve .pp] ∧ Event.reset ∉ [Event.rx 1, .rxService, .serve .pp] := by decide
theorem witness_leak : (State.resetWith small).fsm = .idle ∧
    (after (runEvents (State.resetWith small) [.rx 1, .rxService, .request .cp 0x7000, .serve .cp, .serve .cp, .serve .cp])).map
      (fun t => (t.fsm, t.work.k)) = some (.dropAll, none) := by decide
theorem witness_transmits : ∃ t, step ((readyParse .event 0 []).withSched [.serve .cp]) = .next t ∧ t.txLog = reply mid :=
  ⟨{ readyParse .tx 0 [] with txPend := reply mid, txLog := reply mid }, rfl, rfl⟩
theorem witness_progress : Params.wf small = true ∧ [0x55].length ≤ small.queueN - 1 ∧ parseResult small [0x55] = (.notEnoughBytes, 0) ∧
    parseResult small [] = (.bufferEmpty, 0) ∧ parseResult small [0x55, 0, 1, 0, 4, 0x77, 4] = (.notSynced, 1) ∧
    parseResult mid [0x55, 0, 1, 0, 4, 0x77, 4] = (.short, 0) := by decide +kernel
theorem witness_packet : parseResult mid ([1] ++ frameReady ++ [2]) = (.packet ⟨4, [4], []⟩, 9) := by decide +kernel

/-- A run in which the sink takes the waiting byte and then finds nothing. -/
def sinkRun : Nat → State
  | 0 => waiting
  | _ => { waiting with txPend := [] }

theorem witness_FairSink : IsRun (fun _ => .txSink) sinkRun ∧ FairSink (fun _ => .txSink) sinkRun ∧ Inv (sinkRun 0) :=
  ⟨fun n => by cases n <;> rfl, fun n _ => ⟨n, Nat.le_refl n, rfl⟩, witness_Tx.1⟩

/-- A run in which the producer services the held byte and then finds nothing. -/
def serviceRun : Nat → State
  | 0 => draining
  | _ => { holding 6 [1, 2, 0x55] with ppRsp := some (.ok true) }

theorem witness_FairProducer : IsRun (fun _ => .rxService) serviceRun ∧ FairProducer (fun _ => .rxService) serviceRun ∧
    Inv (serviceRun 0) ∧ ∀ (m : Nat) (b : Byte), 0 ≤ m → (fun _ : Nat => Event.rxService) m ≠ .rx b :=
  ⟨fun n => by cases n <;> rfl, fun n h => absurd (h (n + 1) (Nat.le_succ n)) (by simp [serviceRun, State.rxPend, holding]; decide),
    witness_Drain.1, fun _ _ _ => by simp⟩

end Sys2Proof.Tests
end

section
/-! The state and the schedule: the derived status values, the ports, a recorded fault (10_state.md R24, R30, R38). -/

namespace Sys2Proof.Machine

/-! ## Status values -/

/-- `LEN` as R24 writes it, with the subtraction over the integers. -/
theorem State.len_int {s : State} (h : s.Cursors) :
    (s.len : Int) = ((s.wr : Int) - (s.rd : Int)) % (s.par.queueN : Int) := by
  have hle : s.rd ≤ s.wr + s.par.queueN := by have := h.rd_lt; omega
  have hcast : ((s.wr + s.par.queueN - s.rd : Nat) : Int) = (s.wr - s.rd : Int) + s.par.queueN := by omega
  rw [State.len, Int.natCast_emod, hcast, Int.add_emod_right]

/-- `FULL` is `LEN == QUEUE_N - 1` (R24). -/
theorem State.full_iff_len {s : State} (h : s.Cursors) : s.full = true ↔ s.len = s.par.queueN - 1 := by
  have := h.rd_lt
  rw [State.full_iff h]
  omega

/-- The bounds on `QUEUE_N` of 00_scope.md R8. -/
theorem params_wf_iff {p : Params} : p.wf = true ↔ 8 ≤ p.queueN ∧ p.queueN ≤ 65536 := by
  simp [Params.wf]

theorem State.resetWith_cursors {p : Params} (h : p.wf = true) : (State.resetWith p).Cursors := by
  have hpos : 0 < p.queueN := by have := params_wf_iff.1 h; omega
  exact ⟨hpos, hpos⟩

/-- Right after reset the queue is empty and, with room for a byte, not full (R24). -/
theorem State.resetWith_status {p : Params} (h : p.wf = true) :
    (State.resetWith p).len = 0 ∧ (State.resetWith p).empty = true ∧ (State.resetWith p).full = false := by
  have hc := State.resetWith_cursors h
  have hl : (State.resetWith p).len = 0 := (State.empty_iff hc).1 rfl
  refine ⟨hl, rfl, Bool.eq_false_iff.2 fun hf => ?_⟩
  have hone : 0 + 1 = p.queueN := hl ▸ (State.full_iff hc).1 hf
  have := params_wf_iff.1 h
  omega

/-- Settles O20: the cursor arithmetic of each status value, and the values at reset. -/
theorem statusIsAFunctionOfTheCursors : Obligations.StatusIsAFunctionOfTheCursors := by
  refine ⟨fun s hr hw => ?_, fun _ => State.resetWith_status⟩
  have hc : s.Cursors := ⟨hr, hw⟩
  exact ⟨State.len_int hc, State.len_lt hc, beq_iff_eq, State.empty_iff hc, beq_iff_eq, State.full_iff_len hc⟩

/-! ## The ports and a recorded fault -/

/-- A port takes the word placed on it unless it is busy (R30). -/
theorem State.placeRequest_eq_ite (s : State) (p : Port) (w : Word) :
    s.placeRequest p w = if s.busy p then s else s.accept p w := rfl

/-- A step whose event is a request on a busy port changes nothing. -/
theorem step_of_request_busy {s : State} {p : Port} {w : Word} {rest : List Event} (hf : s.fault = none)
    (hs : s.sched = .request p w :: rest) (hb : s.busy p = true) : step s = .next (s.withSched rest) := by
  have hb' : (s.withSched rest).busy p = true := by cases p <;> exact hb
  rw [step_of_cons hf hs, State.perform, State.placeRequest_eq_ite, if_pos hb']

/-- A step whose event is a request on a port that is not busy makes the word its outstanding request. -/
theorem step_of_request_free {s : State} {p : Port} {w : Word} {rest : List Event} (hf : s.fault = none)
    (hs : s.sched = .request p w :: rest) (hb : ¬ s.busy p = true) : step s = .next ((s.withSched rest).accept p w) := by
  have hb' : ¬ (s.withSched rest).busy p = true := by cases p <;> exact hb
  rw [step_of_cons hf hs, State.perform, State.placeRequest_eq_ite, if_neg hb']

/-- Settles O11, by the port's busy bit. -/
theorem portTakesOneRequestAtATime : Obligations.PortTakesOneRequestAtATime := by
  intro s w rest hf
  constructor <;> intro hs
  · by_cases hb : s.pbusy = true
    · rw [step_of_request_busy hf hs hb, if_pos hb]; rfl
    · rw [step_of_request_free hf hs hb, if_neg hb]; rfl
  · by_cases hb : s.cbusy = true
    · rw [step_of_request_busy hf hs hb, if_pos hb]; rfl
    · rw [step_of_request_free hf hs hb, if_neg hb]; rfl

/-- With a fault recorded, any event but a reset is answered by that fault (R38). -/
theorem State.react_of_fault {s : State} {f : Fault} {e : Event} (hf : s.fault = some f) (he : e ≠ .reset) :
    s.react e = .fault f := by
  simp [State.react, hf, he]

/-- Settles O12, by whether the schedule is empty. -/
theorem noAgentStepsAfterFault : Obligations.NoAgentStepsAfterFault := by
  intro s f hf hhead
  rcases hs : s.sched with _ | ⟨e, rest⟩
  · simp [step, State.advance, hs, hf]
  · have he : e ≠ .reset := by simpa [hs] using hhead
    simpa [step, State.advance, hs] using State.react_of_fault (s := s.withSched rest) hf he

end Sys2Proof.Machine
end

section
/-! What the words on a port decode to, and everything the agent of a port can do with its request. -/

namespace Sys2Proof

/-- A row of R74 without an operand accepts only `ARG` 0x00. -/
theorem decodeNoArg_eq_ok {arg : Byte} {i j : Instr} : decodeNoArg arg i = .ok j ↔ arg = 0 ∧ i = j := by
  unfold decodeNoArg
  split
  · simp [*]
  · exact ⟨nofun, fun h => absurd h.1 ‹_›⟩

/-- A decoded word is the encoding of its operation and stands on that operation's port (30_encoding.md R74, R76). -/
theorem encode_of_decode {p : Port} {w : Word} {i : Instr} (h : decode p w = .ok i) : encode i = w ∧ i.port = p := by
  unfold decode at h
  split at h
  · cases h
  · have hr : rsvField w = 0 := not_not.1 ‹_›
    have hw := commandWord_of_fields hr
    -- the two rows with an operand, then the five whose `ARG` is 0x00
    iterate 2
      split at h
      next hrow =>
        cases h
        rw [hrow.1] at hw
        exact ⟨hw, hrow.2.symm⟩
    iterate 5
      split at h
      next hrow =>
        obtain ⟨harg, rfl⟩ := decodeNoArg_eq_ok.1 h
        rw [hrow.1, harg] at hw
        exact ⟨hw, hrow.2.symm⟩
    split at h <;> cases h

end Sys2Proof

namespace Sys2Proof.Machine

/-- The only operation of the producer's port is WRITE. -/
theorem write_of_port_pp {i : Instr} (h : i.port = .pp) : ∃ b, i = .write b := by
  cases i with
  | write b => exact ⟨b, rfl⟩
  | _ => cases h

/-- Everything an operation of the consumer's port can do: it raises the fault of a queue cell that holds `⊥`, or only responds,
or takes the oldest byte and responds, or starts a PARSE. -/
theorem exec_cp_cases {i : Instr} (hi : i.port = .cp) (s : State) :
    (∃ j, (s.Cursors → j < s.len) ∧ Memory.read s.cell (s.elemCell j) = none ∧
      exec i s = .next (s.raise (.uninitRead (s.elemCell j)))) ∨
    (∃ r, exec i s = .next (s.respond .cp r)) ∨
    (∃ r, s.empty = false ∧ exec i s = .next (s.dropFront.respond .cp r)) ∨
    (i = .parse ∧ exec i s = .next { s with fsm := .snap1, cbusy := true }) := by
  have front (he : s.empty = false) (hc : s.Cursors) : 0 < s.len := by
    rw [Nat.pos_iff_ne_zero, Ne, ← State.empty_iff hc, he]
    decide
  cases i with
  | write b => cases hi
  | read =>
    rcases execRead_cases s with ⟨-, h⟩ | ⟨he, hm, h⟩ | ⟨b, he, -, h⟩
    · exact .inr (.inl ⟨_, h⟩)
    · exact .inl ⟨0, front he, hm, h⟩
    · exact .inr (.inr (.inl ⟨_, he, h⟩))
  | peek =>
    rcases execPeek_cases s with ⟨-, h⟩ | ⟨he, hm, h⟩ | ⟨b, -, -, h⟩
    · exact .inr (.inl ⟨_, h⟩)
    · exact .inl ⟨0, front he, hm, h⟩
    · exact .inr (.inl ⟨_, h⟩)
  | snapshot m =>
    simp only [exec, execSnapshot]
    rcases hr : s.snapshot (countOperand m) with f | bs
    · obtain ⟨j, -, hj, rfl, hm⟩ := State.readElems_error hr
      exact .inl ⟨j, fun _ => by omega, hm, rfl⟩
    · exact .inr (.inl ⟨_, rfl⟩)
  | iterate =>
    simp only [exec, execIterate]
    rcases hr : s.readElems 0 s.len with f | bs
    · obtain ⟨j, -, hj, rfl, hm⟩ := State.readElems_error hr
      exact .inl ⟨j, fun _ => by omega, hm, rfl⟩
    · exact .inr (.inl ⟨_, rfl⟩)
  | len => exact .inr (.inl ⟨_, rfl⟩)
  | parse => exact .inr (.inr (.inr ⟨rfl, rfl⟩))

/-- Everything the producer's agent can do with the request on its port. -/
theorem State.serveRequest_pp_cases (s : State) :
    s.serveRequest .pp = .next s ∨
    (∃ r, s.serveRequest .pp = .next (s.respond .pp r)) ∨
    (∃ b, s.full = false ∧ s.serveRequest .pp = .next ((s.append b).respond .pp (.ok true))) := by
  rcases hr : s.request .pp with _ | w
  · exact .inl (State.serveRequest_none hr)
  · rcases hd : decode .pp w with e | i
    · exact .inr (.inl ⟨_, State.serveRequest_error hr hd⟩)
    · obtain ⟨b, rfl⟩ := write_of_port_pp (encode_of_decode hd).2
      rw [State.serveRequest_ok hr hd]
      rcases execWrite_cases b s with ⟨-, h⟩ | ⟨hf, h⟩
      · exact .inr (.inl ⟨_, h⟩)
      · exact .inr (.inr ⟨b, hf, h⟩)

/-- Everything the consumer's agent can do with the request on its port: nothing, or it responds to an illegal word, or
the operation takes effect. -/
theorem State.serveRequest_cp_cases (s : State) :
    s.serveRequest .cp = .next s ∨
    s.serveRequest .cp = .next (s.respond .cp .illegal) ∨
    (∃ i : Instr, i.port = .cp ∧ s.cpReq = some (encode i) ∧ s.serveRequest .cp = exec i s) := by
  rcases hr : s.request .cp with _ | w
  · exact .inl (State.serveRequest_none hr)
  · rcases hd : decode .cp w with e | i
    · exact .inr (.inl (State.serveRequest_error hr hd))
    · obtain ⟨hw, hp⟩ := encode_of_decode hd
      exact .inr (.inr ⟨i, hp, hw ▸ hr, State.serveRequest_ok hr hd⟩)

/-- Everything an RXSERVICE can do: nothing, or the oldest received byte leaves `RXH` and is dropped or appended (R131, R132). -/
theorem State.rxService_cases (s : State) :
    s.rxService = .next s ∨
    (∃ b rest, s.rxh = b :: rest ∧ s.full = true ∧ s.rxService = .next (State.respond { s with rxh := rest } .pp (.ok false))) ∨
    (∃ b rest, s.rxh = b :: rest ∧ s.full = false ∧
      s.rxService = .next ((State.append { s with rxh := rest } b).respond .pp (.ok true))) := by
  unfold State.rxService
  split
  · exact .inl rfl
  next b rest hb =>
    rcases execWrite_cases b { s with rxh := rest } with ⟨hf, h⟩ | ⟨hf, h⟩
    · exact .inr (.inl ⟨b, rest, hb, hf, h⟩)
    · exact .inr (.inr ⟨b, rest, hb, hf, h⟩)

end Sys2Proof.Machine
end

section
/-! Who moves the cursors (10_state.md R21). -/

namespace Sys2Proof.Machine

/-- Both cursors and the parameters are as they were. -/
structure State.CursorsKept (s t : State) : Prop where
  rd : t.rd = s.rd
  wr : t.wr = s.wr
  par : t.par = s.par

/-- What a step of the consumer does to the cursors: `RD` advances by one position or stays. -/
structure State.ConsumerMove (s t : State) : Prop where
  rd : t.rd = s.rd ∨ t.rd = s.cursorNext s.rd
  wr : t.wr = s.wr
  par : t.par = s.par

/-- What a step of the producer does to the cursors: `WR` advances by one position or stays. -/
structure State.ProducerMove (s t : State) : Prop where
  rd : t.rd = s.rd
  wr : t.wr = s.wr ∨ t.wr = s.cursorNext s.wr
  par : t.par = s.par

variable {s t : State}

theorem State.CursorsKept.consumerMove (h : s.CursorsKept t) : s.ConsumerMove t := ⟨.inl h.rd, h.wr, h.par⟩

/-! ## The producer -/

theorem State.serveRequest_pp_producerMove (h : s.serveRequest .pp = .next t) : s.ProducerMove t := by
  rcases s.serveRequest_pp_cases with h' | ⟨r, h'⟩ | ⟨b, -, h'⟩ <;> cases h'.symm.trans h
  · exact ⟨rfl, .inl rfl, rfl⟩
  · exact ⟨rfl, .inl rfl, rfl⟩
  · exact ⟨rfl, .inr rfl, rfl⟩

theorem State.rxService_producerMove (h : s.rxService = .next t) : s.ProducerMove t := by
  rcases s.rxService_cases with h' | ⟨b, rest, -, -, h'⟩ | ⟨b, rest, -, -, h'⟩ <;> cases h'.symm.trans h
  · exact ⟨rfl, .inl rfl, rfl⟩
  · exact ⟨rfl, .inl rfl, rfl⟩
  · exact ⟨rfl, .inr rfl, rfl⟩

/-! ## The consumer -/

theorem exec_cp_consumerMove {i : Instr} (hi : i.port = .cp) (h : exec i s = .next t) : s.ConsumerMove t := by
  rcases exec_cp_cases hi s with ⟨j, -, -, h'⟩ | ⟨r, h'⟩ | ⟨r, -, h'⟩ | ⟨-, h'⟩ <;> cases h'.symm.trans h
  · exact ⟨.inl rfl, rfl, rfl⟩
  · exact ⟨.inl rfl, rfl, rfl⟩
  · exact ⟨.inr rfl, rfl, rfl⟩
  · exact ⟨.inl rfl, rfl, rfl⟩

theorem State.serveRequest_cp_consumerMove (h : s.serveRequest .cp = .next t) : s.ConsumerMove t := by
  rcases s.serveRequest_cp_cases with h' | h' | ⟨i, hi, -, h'⟩
  · cases h'.symm.trans h; exact ⟨.inl rfl, rfl, rfl⟩
  · cases h'.symm.trans h; exact ⟨.inl rfl, rfl, rfl⟩
  · exact exec_cp_consumerMove hi (h'.symm.trans h)

/-- A READ inside PARSE moves `RD` at most, when what follows it leaves the cursors alone. -/
theorem State.parseRead_consumerMove {after : State → State} (ha : ∀ u : State, u.CursorsKept (after u)) :
    s.ConsumerMove (s.parseRead after) := by
  rcases s.parseRead_cases after with ⟨-, h⟩ | ⟨-, -, h⟩ | ⟨b, -, -, h⟩ <;> rw [h]
  · exact (ha s).consumerMove
  · exact ⟨.inl rfl, rfl, rfl⟩
  · exact ⟨.inr (ha s.dropFront).rd, (ha s.dropFront).wr, (ha s.dropFront).par⟩

theorem State.parseReads_consumerMove {exit : State → State} (ha : ∀ u : State, u.CursorsKept (exit u)) :
    s.ConsumerMove (s.parseReads exit) := by
  unfold State.parseReads
  split
  · exact (ha s).consumerMove
  · exact State.parseRead_consumerMove fun _ => ⟨rfl, rfl, rfl⟩

/-- A state of the engine that does not READ leaves the cursors alone. -/
theorem State.parseStep_cursorsKept (hr : s.fsm ∉ [.dropAll, .dropPrefix, .dropOne, .commit]) : s.CursorsKept s.parseStep := by
  cases hm : s.fsm with
  | dropAll | dropPrefix | dropOne | commit => simp [hm] at hr
  | idle | done =>
    simp only [State.parseStep, hm]
    exact ⟨rfl, rfl, rfl⟩
  | scan | hdr | data | event | tx =>
    simp only [State.parseStep, hm, State.stepScan, State.stepHdr, State.stepData, State.stepEvent, State.stepTx]
    split <;> exact ⟨rfl, rfl, rfl⟩
  | snap1 | snap2 | len =>
    simp only [State.parseStep, hm, State.stepSnap1, State.stepSnap2, State.stepLen]
    split
    · exact ⟨rfl, rfl, rfl⟩
    · split <;> exact ⟨rfl, rfl, rfl⟩

/-- One transition of the engine moves `RD` at most: the four states that READ, by one position. -/
theorem State.parseStep_consumerMove (s : State) : s.ConsumerMove s.parseStep := by
  by_cases hr : s.fsm ∈ [.dropAll, .dropPrefix, .dropOne, .commit]
  · simp only [List.mem_cons, List.not_mem_nil, or_false] at hr
    rcases hr with hm | hm | hm | hm <;> simp only [State.parseStep, hm]
    · exact State.parseReads_consumerMove fun _ => ⟨rfl, rfl, rfl⟩
    · exact State.parseReads_consumerMove fun _ => ⟨rfl, rfl, rfl⟩
    · exact State.parseRead_consumerMove fun _ => ⟨rfl, rfl, rfl⟩
    · exact State.parseReads_consumerMove fun _ => ⟨rfl, rfl, rfl⟩
  · exact (State.parseStep_cursorsKept hr).consumerMove

theorem State.serve_cp_consumerMove (h : s.serve .cp = .next t) : s.ConsumerMove t := by
  by_cases hm : s.fsm = .idle
  · exact State.serveRequest_cp_consumerMove (State.serve_cp_idle hm ▸ h)
  · rw [State.serve_cp_parsing hm] at h
    cases h
    exact s.parseStep_consumerMove

/-! ## Every event -/

theorem State.placeRequest_cursorsKept (s : State) (p : Port) (w : Word) : s.CursorsKept (s.placeRequest p w) := by
  rw [State.placeRequest_eq_ite]
  split
  · exact ⟨rfl, rfl, rfl⟩
  · exact ⟨by simp, by simp, by simp⟩

theorem State.rxByte_cursorsKept (s : State) (b : Byte) : s.CursorsKept (s.rxByte b) := by
  unfold State.rxByte
  split <;> exact ⟨rfl, rfl, rfl⟩

/-- RXSERVICE steps only when it is enabled (R131). -/
theorem State.perform_rxService_eq_ite (s : State) :
    s.perform .rxService = if s.rxServiceEnabled then s.rxService else .next s := rfl

/-- Every event but a reset leaves the cursors alone, or is a step of the producer or the consumer that moves its own at most. -/
theorem State.perform_cursors {e : Event} (he : e ≠ .reset) (h : s.perform e = .next t) :
    s.CursorsKept t ∨ (e = .serve .cp ∧ s.ConsumerMove t) ∨ ((e = .serve .pp ∨ e = .rxService) ∧ s.ProducerMove t) := by
  cases e with
  | rx b => cases h; exact .inl (s.rxByte_cursorsKept b)
  | rxService =>
    rw [State.perform_rxService_eq_ite] at h
    split at h
    · exact .inr (.inr ⟨.inr rfl, State.rxService_producerMove h⟩)
    · cases h; exact .inl ⟨rfl, rfl, rfl⟩
  | request p w => cases h; exact .inl (s.placeRequest_cursorsKept p w)
  | serve p =>
    cases p with
    | pp => exact .inr (.inr ⟨.inl rfl, State.serveRequest_pp_producerMove h⟩)
    | cp => exact .inr (.inl ⟨rfl, State.serve_cp_consumerMove h⟩)
  | txSink => cases h; exact .inl ⟨rfl, rfl, rfl⟩
  | reset => exact absurd rfl he

end Sys2Proof.Machine
end

section
/-! Each cursor has one owner. -/

namespace Sys2Proof.Machine

/-- Settles O55: the step performs its event, and each agent's events move its own cursor at most. -/
theorem eachCursorHasOneOwner : Obligations.EachCursorHasOneOwner := by
  intro s t e rest hs h he
  rcases step_next_cases h with ⟨-, hnil, -⟩ | ⟨e', rest', hs', -, h⟩ | ⟨rest', hs', -⟩
  · rw [hs] at hnil; cases hnil
  · rw [hs] at hs'
    cases hs'
    rcases State.perform_cursors he h with k | ⟨hc, m⟩ | ⟨hp, m⟩
    · exact ⟨.inl k.rd, .inl k.wr, k.par⟩
    · exact ⟨m.rd.imp_right fun hr => ⟨hc, hr⟩, .inl m.wr, m.par⟩
    · exact ⟨.inl m.rd, m.wr.imp_right fun hw => ⟨hp, hw⟩, m.par⟩
  · rw [hs] at hs'; cases hs'; exact absurd rfl he

end Sys2Proof.Machine
end

section
/-! The invariant: the machine right after reset, and the updates that leave the engine's state alone. -/

namespace Sys2Proof.Machine

/-! ## The reset state -/

/-- With no PARSE in progress the engine's clauses say nothing. -/
theorem ParseInv.of_idle {s : State} (h : s.fsm = .idle) : ParseInv s := by
  constructor <;> intro hm <;> cases h.symm.trans hm

/-- Right after reset the invariant holds (70_reset_and_hazards.md R215). -/
theorem Inv.resetWith {p : Params} (hp : p.wf = true) : Inv (State.resetWith p) where
  par_wf := hp
  rd_lt := (State.resetWith_cursors hp).rd_lt
  wr_lt := (State.resetWith_cursors hp).wr_lt
  cell_wf := List.Pairwise.nil
  cell_lt := nofun
  occupied i _ := by rw [(State.resetWith_status hp).1]; rfl
  snap_length := List.length_replicate
  snap_count := Nat.zero_le _
  rxh_length := Nat.zero_le _
  pp_request := rfl
  cp_request := rfl
  parsing h := absurd rfl h
  no_fault := rfl
  tx_waits _ := rfl
  tx_pending := List.nil_suffix
  tx_log := by simp [State.resetWith]
  parse := .of_idle rfl

/-! ## Updates outside the queue and the engine -/

variable {s : State}

/-- The schedule is no part of the invariant. -/
theorem Inv.withSched (h : Inv s) (es : List Event) : Inv (s.withSched es) := { h with parse := { h.parse with } }

theorem Inv.rxByte (h : Inv s) (b : Byte) : Inv (s.rxByte b) := by
  unfold State.rxByte
  split
  next hroom =>
    exact { h with
      rxh_length := by rw [List.length_append]; exact Nat.succ_le_of_lt hroom
      parse := { h.parse with } }
  · exact h

/-- Taking the oldest received byte. -/
theorem Inv.rxTake (h : Inv s) {b : Byte} {rest : List Byte} (hr : s.rxh = b :: rest) : Inv { s with rxh := rest } := by
  have hle := h.rxh_length
  rw [hr] at hle
  exact { h with rxh_length := Nat.le_of_succ_le hle, parse := { h.parse with } }

theorem Inv.txSink (h : Inv s) : Inv s.txSink :=
  { h with
    tx_waits := fun hm => by simp [h.tx_waits hm]
    tx_pending := (List.tail_suffix _).trans h.tx_pending
    parse := { h.parse with } }

theorem Inv.respond_pp (h : Inv s) (r : Response) : Inv (s.respond .pp r) :=
  { h with pp_request := rfl, parse := { h.parse with } }

/-- `CP` responds to what is not a PARSE in progress. -/
theorem Inv.respond_cp (h : Inv s) (hm : s.fsm = .idle) (r : Response) : Inv (s.respond .cp r) :=
  { h with cp_request := rfl, parsing := absurd hm, parse := .of_idle hm }

/-- While `CP` is not busy no PARSE is in progress. -/
theorem Inv.fsm_idle (h : Inv s) (hb : s.cbusy = false) : s.fsm = .idle := by
  by_contra hm
  have hreq := h.cp_request
  rw [hb, h.parsing hm] at hreq
  cases hreq

theorem Inv.placeRequest (h : Inv s) (p : Port) (w : Word) : Inv (s.placeRequest p w) := by
  rw [State.placeRequest_eq_ite]
  split
  · exact h
  next hb =>
    cases p with
    | pp => exact { h with pp_request := rfl, parse := { h.parse with } }
    | cp =>
      have hm := h.fsm_idle (Bool.eq_false_iff.2 hb)
      exact { h with cp_request := rfl, parsing := absurd hm, parse := .of_idle hm }

/-! ## Updates of the queue -/

/-- A WRITE that succeeds leaves what the engine knows about the front of the queue true (20_memory.md R57). -/
theorem ParseInv.append (h : ParseInv s) (hc : s.Cursors) (hf : s.full = false) (b : Byte) : ParseInv (s.append b) where
  scan hm := by
    obtain ⟨h1, h2, front⟩ := h.scan hm
    exact ⟨h1, h2, front.append hc hf b⟩
  dropAll hm := by
    obtain ⟨h1, h2, h3, h4, front⟩ := h.dropAll hm
    exact ⟨h1, h2, h3, h4, front.append hc hf b⟩
  dropPrefix hm := by
    obtain ⟨k, h1, h2, h3, h4, front⟩ := h.dropPrefix hm
    exact ⟨k, h1, h2, h3, h4, front.append hc hf b⟩
  snap2 hm := (h.snap2 hm).imp_right fun front => front.append hc hf b
  hdr hm := (h.hdr hm).imp_right fun front => front.append hc hf b
  dropOne hm := by
    obtain ⟨h1, front, h2⟩ := h.dropOne hm
    exact ⟨h1, front.append hc hf b, h2⟩
  len hm := by
    obtain ⟨h1, front, h2⟩ := h.len hm
    exact ⟨h1, front.append hc hf b, h2⟩
  data hm := (h.data hm).imp_right fun front => front.append hc hf b
  commit hm := by
    obtain ⟨h1, h2, h3, front⟩ := h.commit hm
    exact ⟨h1, h2, h3, front.append hc hf b⟩
  event := h.event
  tx := h.tx
  done := h.done

theorem Inv.append (h : Inv s) (hf : s.full = false) (b : Byte) : Inv (s.append b) :=
  { h.queue.append hf b, h with parse := h.parse.append h.cursors hf b }

/-- A READ with no PARSE in progress. -/
theorem Inv.dropFront_idle (h : Inv s) (he : s.empty = false) (hm : s.fsm = .idle) : Inv s.dropFront :=
  { h.queue.dropFront he, h with parse := .of_idle hm }

/-! ## Requests and received bytes -/

theorem Inv.serveRequest_pp {t : State} (h : Inv s) (hs : s.serveRequest .pp = .next t) : Inv t := by
  rcases s.serveRequest_pp_cases with h' | ⟨r, h'⟩ | ⟨b, hf, h'⟩ <;> cases h'.symm.trans hs
  · exact h
  · exact h.respond_pp r
  · exact (h.append hf b).respond_pp _

theorem Inv.rxService {t : State} (h : Inv s) (hs : s.rxService = .next t) : Inv t := by
  rcases s.rxService_cases with h' | ⟨b, rest, hr, -, h'⟩ | ⟨b, rest, hr, hf, h'⟩ <;> cases h'.symm.trans hs
  · exact h
  · exact (h.rxTake hr).respond_pp _
  · exact ((h.rxTake hr).append hf b).respond_pp _

/-- The consumer's agent with no PARSE in progress. A queue cell that holds `⊥` is ruled out by R23. -/
theorem Inv.serveRequest_cp {t : State} (h : Inv s) (hm : s.fsm = .idle) (hs : s.serveRequest .cp = .next t) : Inv t := by
  rcases s.serveRequest_cp_cases with h' | h' | ⟨i, hi, hreq, h'⟩
  · cases h'.symm.trans hs; exact h
  · cases h'.symm.trans hs; exact h.respond_cp hm _
  · rw [h'] at hs
    rcases exec_cp_cases hi s with ⟨j, hj, hread, h'⟩ | ⟨r, h'⟩ | ⟨r, he, h'⟩ | ⟨rfl, h'⟩ <;> cases h'.symm.trans hs
    · have := h.queue.read_elem (hj h.cursors)
      rw [hread] at this
      cases this
    · exact h.respond_cp hm r
    · exact (h.dropFront_idle he hm).respond_cp hm r
    · exact { h with
        cp_request := by rw [hreq]; rfl
        parsing := fun _ => hreq
        tx_waits := fun _ => h.tx_waits (by rw [hm]; decide)
        parse := by constructor <;> intro hm <;> cases hm }

end Sys2Proof.Machine
end

section
/-! The invariant along a PARSE: each transition of the engine keeps it (43_framer.md R140 to R155). -/

namespace Sys2Proof.Machine

variable {s : State}

/-! ## The snapshot and the front of the queue -/

theorem Inv.length_snap (h : Inv s) : s.snap.length = s.snapCnt := by
  rw [State.snap, List.length_take, h.snap_length, Nat.min_eq_left h.snap_count]

theorem Inv.minFrame_le_length_snap (h : Inv s) (hs : s.Snapped) : minFrame ≤ s.snap.length := by
  obtain ⟨-, -, hmin, -⟩ := hs
  rwa [h.length_snap]

theorem State.Sized.head?_snap (hs : s.Sized) : s.snap.head? = some syncByte := by
  obtain ⟨⟨-, -, -, hhead⟩, -⟩ := hs
  exact hhead

/-- What begins the front of the queue is at its front. -/
theorem State.FrontIs.of_prefix {as bs : List Byte} (h : s.FrontIs bs) (hp : as <+: bs) : s.FrontIs as := by
  obtain ⟨cs, rfl⟩ := hp
  have := congrArg (List.take as.length) h
  rwa [List.take_take, List.length_append, Nat.min_eq_left (Nat.le_add_right ..), List.map_append,
    List.take_left' (List.length_map _)] at this

/-- With every READ still to issue, the whole sequence is at the front. -/
theorem State.FrontIs.drop_sub {l : List Byte} {c n : Nat} (h : s.FrontIs l) (hn : n = c) : s.FrontIs (l.drop (c - n)) := by
  rwa [hn, Nat.sub_self, List.drop_zero]

theorem State.Holds.frontIs_take {q : List Byte} (h : s.Holds q) (n : Nat) : s.FrontIs (q.take n) :=
  State.Holds.frontIs (q := q.drop n) (by rwa [List.take_append_drop])

/-- The contents of a queue with a given front. -/
theorem State.FrontIs.head?_of_holds {b : Byte} {q : List Byte} (h : s.FrontIs [b]) (hq : s.Holds q) : q.head? = some b := by
  rw [State.FrontIs, hq] at h
  cases q with
  | nil => cases h
  | cons c q => simpa using h

/-- What follows the byte at position `c - (n + 1)` begins at position `c - n`. -/
theorem drop_sub_succ {l : List Byte} {c n : Nat} (hn : n + 1 ≤ c) (hc : c ≤ l.length) :
    ∃ b, l[c - (n + 1)]? = some b ∧ l.drop (c - (n + 1)) = b :: l.drop (c - n) := by
  have hlt : c - (n + 1) < l.length := by omega
  refine ⟨l[c - (n + 1)], List.getElem?_eq_getElem hlt, ?_⟩
  rw [List.drop_eq_getElem_cons hlt, show c - (n + 1) + 1 = c - n by omega]

/-- A queue whose front is not empty is not empty. -/
theorem State.FrontIs.not_empty {b : Byte} {bs : List Byte} (h : s.FrontIs (b :: bs)) (hc : s.Cursors) : s.empty = false := by
  have hl := h.length_le
  rw [Bool.eq_false_iff, Ne, State.empty_iff hc]
  rw [List.length_cons] at hl
  omega

/-! ## READs inside a PARSE -/

/-- The READ inside a PARSE of a queue with front `b`, followed by updates `after` of the engine. -/
theorem Inv.parseRead {b : Byte} {bs : List Byte} {after : State → State} (h : Inv s) (hf : s.FrontIs (b :: bs))
    (ha : s.dropFront.QueueInv → s.dropFront.FrontIs bs → Inv (after s.dropFront)) : Inv (s.parseRead after) := by
  rw [State.parseRead_of_front h.cursors hf]
  exact ha (h.queue.dropFront (hf.not_empty h.cursors)) (State.queueRead_of_front h.cursors hf).2

/-- One step of a repeated READ whose remaining bytes `l.drop (c - remaining)` are at the front of the queue: it keeps the
invariant when what is READ keeps the engine's clause, and when the end of the repetition does. -/
theorem Inv.parseReads {l : List Byte} {c : Nat} {exit : State → State} (h : Inv s) (hc : c ≤ l.length)
    (hr : s.work.remaining ≤ c) (hf : s.FrontIs (l.drop (c - s.work.remaining)))
    (hexit : s.work.remaining = 0 → Inv (exit s))
    (hread : ∀ n, n + 1 = s.work.remaining → s.dropFront.FrontIs (l.drop (c - n)) →
      ParseInv { s.dropFront with work.remaining := n }) :
    Inv (s.parseReads exit) := by
  unfold State.parseReads
  split
  next h0 => exact hexit h0
  next n hn =>
    rw [hn] at hr hf
    obtain ⟨b, -, hb⟩ := drop_sub_succ hr hc
    rw [hb] at hf
    exact h.parseRead hf fun hq hfront => { hq, h with parse := hread n hn.symm hfront }

/-! ## The verdict on a snapshot, check by check (R146 to R153) -/

section
variable {p : Params} {f : List Byte}

theorem verdict_of_length_lt (hl : f.length < minFrame) : verdict p f = .notEnoughBytes := if_pos hl

theorem verdict_of_header_mismatch (hl : minFrame ≤ f.length) (hh : headerOk p f = false) : verdict p f = .notSynced := by
  rw [verdict, if_neg (by omega), if_pos hh]

theorem verdict_of_oversize (hl : minFrame ≤ f.length) (hh : headerOk p f = true)
    (ho : p.maxFrame < frameLength (frameDL f) (frameOL f)) : verdict p f = .notSynced := by
  rw [verdict, if_neg (by omega), if_neg (by simp [hh]), if_pos ho]

theorem verdict_of_short (hl : minFrame ≤ f.length) (hh : headerOk p f = true)
    (ho : frameLength (frameDL f) (frameOL f) ≤ p.maxFrame) (hs : f.length < frameLength (frameDL f) (frameOL f)) :
    verdict p f = .short := by
  rw [verdict, if_neg (by omega), if_neg (by simp [hh]), if_neg (by omega), if_pos hs]

theorem verdict_of_whole_frame (hl : minFrame ≤ f.length) (hh : headerOk p f = true)
    (ho : frameLength (frameDL f) (frameOL f) ≤ p.maxFrame) (hs : frameLength (frameDL f) (frameOL f) ≤ f.length) :
    verdict p f = if dataOk p f ((frameDL f).toNat + (frameOL f).toNat) = false then .notSynced
      else .packet (framePacket f (frameDL f) (frameOL f) (framePT f)) := by
  rw [verdict, if_neg (by omega), if_neg (by simp [hh]), if_neg (by omega), if_neg (by omega)]

end

/-- DATA's own check decides the verdict on a snapshot whose header the working values hold (R152, R153). -/
theorem Inv.verdict_of_sized (h : Inv s) (hs : s.Sized) :
    verdict s.par s.snap = if dataOk s.par s.snap (s.work.dl.toNat + s.work.ol.toNat) = false then .notSynced
      else .packet s.parsedPacket := by
  obtain ⟨hsnapped, hh, hdl, hol, hpt, hfl, hmax, hcnt⟩ := hs
  have hmin := h.minFrame_le_length_snap hsnapped
  rw [← h.length_snap] at hcnt
  rw [hfl, hdl, hol] at hmax hcnt
  rw [State.parsedPacket, hdl, hol, hpt, verdict_of_whole_frame hmin hh hmax hcnt]

/-! ## The transitions that READ nothing

Of the engine's clauses only that of the state reached is left to prove: the others are about another `FSM`. -/

/-- A transition from a state but `IDLE` and `TX` that writes only `FSM` and the working values. -/
theorem Inv.engine {m m' : Fsm} {w : ParseRegs} (h : Inv s) (hm : s.fsm = m)
    (hp : ParseInv { s with fsm := m', work := w }) (hi : m ≠ .idle := by decide) (ht : m ≠ .tx := by decide) :
    Inv { s with fsm := m', work := w } :=
  { h with parsing := fun _ => h.parsing (hm ▸ hi), tx_waits := fun _ => h.tx_waits (hm ▸ ht), parse := hp }

/-- Such a transition that also takes a snapshot. -/
theorem Inv.engine_loadSnap {m m' : Fsm} {w : ParseRegs} {bs : List Byte} (h : Inv s) (hm : s.fsm = m)
    (hbs : bs.length ≤ snapMax) (hp : ParseInv { s.loadSnap bs with fsm := m', work := w })
    (hi : m ≠ .idle := by decide) (ht : m ≠ .tx := by decide) : Inv { s.loadSnap bs with fsm := m', work := w } :=
  { h with
    snap_length := by
      simp only [State.loadSnap_snapBuf, List.length_append, List.length_drop, h.snap_length]
      omega
    snap_count := hbs
    parsing := fun _ => h.parsing (hm ▸ hi)
    tx_waits := fun _ => h.tx_waits (hm ▸ ht)
    parse := hp }

theorem Inv.stepSnap1 (h : Inv s) (hm : s.fsm = .snap1) : Inv s.stepSnap1 := by
  obtain ⟨q, hq⟩ := h.queue.holds
  have hsnap := State.loadSnap_snap s (q.take snapMax)
  have hfront := hq.frontIs_take snapMax
  simp only [State.stepSnap1, State.snapshot_of_holds hq]
  split
  next h0 =>
    refine h.engine_loadSnap hm (List.length_take_le ..) ?_
    constructor <;> intro hm' <;> cases hm'
    exact .inl ⟨h0, rfl⟩
  next h0 =>
    refine h.engine_loadSnap hm (List.length_take_le ..) ?_
    constructor <;> intro hm' <;> cases hm'
    exact ⟨rfl, Nat.pos_of_ne_zero h0, hsnap.symm ▸ hfront⟩

theorem Inv.stepScan (h : Inv s) (hm : s.fsm = .scan) : Inv s.stepScan := by
  obtain ⟨hc1, hpos, hfront⟩ := h.parse.scan hm
  unfold State.stepScan
  split
  next hnone =>
    have hsync : syncByte ∉ s.snap := fun hx => by simpa using List.findIdx?_eq_none_iff.1 hnone _ hx
    refine h.engine hm ?_
    constructor <;> intro hm' <;> cases hm'
    exact ⟨rfl, hpos, hsync, hc1.le, hfront.drop_sub hc1⟩
  next k hk =>
    obtain ⟨hlt, hsync, -⟩ := List.findIdx?_eq_some_iff_getElem.1 hk
    refine h.engine hm ?_
    constructor <;> intro hm' <;> cases hm'
    refine ⟨k, h.length_snap ▸ hlt, rfl, ?_, le_rfl, hfront.drop_sub rfl⟩
    exact (List.getElem?_eq_getElem hlt).trans (congrArg some (eq_of_beq hsync))

theorem Inv.stepSnap2 (h : Inv s) (hm : s.fsm = .snap2) : Inv s.stepSnap2 := by
  obtain ⟨hk, hsync⟩ := h.parse.snap2 hm
  obtain ⟨q, hq⟩ := h.queue.holds
  have hsnap := State.loadSnap_snap s (q.take snapMax)
  have hfront := hq.frontIs_take snapMax
  have hhead : (q.take snapMax).head? = some syncByte := by
    rw [List.head?_take, if_neg (by decide), hsync.head?_of_holds hq]
  simp only [State.stepSnap2, State.snapshot_of_holds hq]
  split
  next hlt =>
    refine h.engine_loadSnap hm (List.length_take_le ..) ?_
    constructor <;> intro hm' <;> cases hm'
    exact .inr (.inr ⟨hsnap.symm ▸ hhead, (verdict_of_length_lt (hsnap.symm ▸ hlt)).symm⟩)
  next hge =>
    refine h.engine_loadSnap hm (List.length_take_le ..) ?_
    constructor <;> intro hm' <;> cases hm'
    exact ⟨⟨hk, rfl, Nat.le_of_not_lt hge, hsnap.symm ▸ hhead⟩, hsnap.symm ▸ hfront⟩

theorem Inv.stepHdr (h : Inv s) (hm : s.fsm = .hdr) : Inv s.stepHdr := by
  obtain ⟨hsnapped, hfront⟩ := h.parse.hdr hm
  have hmin := h.minFrame_le_length_snap hsnapped
  unfold State.stepHdr
  split
  next hok =>
    refine h.engine hm ?_
    constructor <;> intro hm' <;> cases hm'
    exact ⟨hsnapped, hfront, hok⟩
  next hbad =>
    refine h.engine hm ?_
    constructor <;> intro hm' <;> cases hm'
    exact ⟨hsnapped, hfront, verdict_of_header_mismatch hmin (Bool.eq_false_iff.2 hbad)⟩

theorem Inv.stepLen (h : Inv s) (hm : s.fsm = .len) : Inv s.stepLen := by
  obtain ⟨hsnapped, hfront, hok⟩ := h.parse.len hm
  have hmin := h.minFrame_le_length_snap hsnapped
  have ⟨_, hc2, _, hhead⟩ := hsnapped
  simp only [State.stepLen]
  split
  next hover =>
    refine h.engine hm ?_
    constructor <;> intro hm' <;> cases hm'
    exact ⟨hsnapped, hfront, verdict_of_oversize hmin hok hover⟩
  next hfits =>
    split
    next hshort =>
      refine h.engine hm ?_
      constructor <;> intro hm' <;> cases hm'
      exact .inr (.inr ⟨hhead, (verdict_of_short hmin hok (Nat.le_of_not_lt hfits) (by rwa [h.length_snap, ← hc2])).symm⟩)
    next hwhole =>
      refine h.engine hm ?_
      constructor <;> intro hm' <;> cases hm'
      rw [hc2] at hwhole
      exact ⟨⟨hsnapped, hok, rfl, rfl, rfl, rfl, Nat.le_of_not_lt hfits, Nat.le_of_not_lt hwhole⟩, hfront⟩

theorem Inv.stepData (h : Inv s) (hm : s.fsm = .data) : Inv s.stepData := by
  obtain ⟨hsized, hfront⟩ := h.parse.data hm
  have hv := h.verdict_of_sized hsized
  unfold State.stepData
  split
  next hok =>
    refine h.engine hm ?_
    constructor <;> intro hm' <;> cases hm'
    rw [if_neg (by simp [hok])] at hv
    exact ⟨hsized, hv, le_rfl, (hfront.of_prefix (List.take_prefix ..)).drop_sub rfl⟩
  next hbad =>
    refine h.engine hm ?_
    constructor <;> intro hm' <;> cases hm'
    rw [if_pos (Bool.eq_false_iff.2 hbad)] at hv
    exact ⟨hsized.1, hfront, hv⟩

/-! ## The transitions that READ -/

theorem Inv.stepDropAll (h : Inv s) (hm : s.fsm = .dropAll) : Inv s.stepDropAll := by
  obtain ⟨hk, hpos, hsync, hrem, hfront⟩ := h.parse.dropAll hm
  refine h.parseReads h.length_snap.ge hrem hfront (fun _ => ?_) fun n hn hf => ?_
  · refine h.engine hm ?_
    constructor <;> intro hm' <;> cases hm'
    exact .inr (.inl ⟨hpos, hsync, rfl⟩)
  · constructor <;> intro hm' <;> cases hm.symm.trans hm'
    exact ⟨hk, hpos, hsync, Nat.le_of_succ_le (hn.trans_le hrem), hf⟩

theorem Inv.stepDropPrefix (h : Inv s) (hm : s.fsm = .dropPrefix) : Inv s.stepDropPrefix := by
  obtain ⟨k, hlt, hk, hsync, hrem, hfront⟩ := h.parse.dropPrefix hm
  refine h.parseReads (by rw [h.length_snap]; exact hlt.le) hrem hfront (fun h0 => ?_) fun n hn hf => ?_
  · refine h.engine hm ?_
    constructor <;> intro hm' <;> cases hm'
    obtain ⟨hlen, hget⟩ := List.getElem?_eq_some_iff.1 hsync
    rw [h0, Nat.sub_zero, List.drop_eq_getElem_cons hlen, hget] at hfront
    exact ⟨by rw [hk]; rfl, hfront.of_prefix ⟨_, rfl⟩⟩
  · constructor <;> intro hm' <;> cases hm.symm.trans hm'
    exact ⟨k, hlt, hk, hsync, Nat.le_of_succ_le (hn.trans_le hrem), hf⟩

theorem Inv.stepDropOne (h : Inv s) (hm : s.fsm = .dropOne) : Inv s.stepDropOne := by
  obtain ⟨⟨-, -, -, hhead⟩, hfront, hv⟩ := h.parse.dropOne hm
  obtain ⟨bs, hbs⟩ := List.head?_eq_some_iff.1 hhead
  refine h.parseRead (hbs ▸ hfront) fun hq _ => ?_
  exact { hq, h with
    parsing := fun _ => h.parsing (by rw [hm]; decide)
    tx_waits := fun _ => h.tx_waits (by rw [hm]; decide)
    parse := by
      constructor <;> intro hm' <;> cases hm'
      exact .inr (.inr ⟨hhead, hv.symm⟩) }

theorem Inv.stepCommit (h : Inv s) (hm : s.fsm = .commit) : Inv s.stepCommit := by
  obtain ⟨hsized, hv, hrem, hfront⟩ := h.parse.commit hm
  have ⟨_, _, _, _, _, _, _, hcnt⟩ := hsized
  have hlen : s.work.fl ≤ (s.snap.take s.work.fl).length := by
    rw [List.length_take, h.length_snap, Nat.min_eq_left hcnt]
  refine h.parseReads hlen hrem hfront (fun _ => ?_) fun n hn hf => ?_
  · refine h.engine hm ?_
    constructor <;> intro hm' <;> cases hm'
    exact ⟨hsized, hv, rfl⟩
  · constructor <;> intro hm' <;> cases hm.symm.trans hm'
    exact ⟨hsized, hv, Nat.le_of_succ_le (hn.trans_le hrem), hf⟩

/-! ## Transmission and the response -/

/-- The reply frame is nine bytes (30_encoding.md R71). -/
@[simp] theorem reply_length (p : Params) : (reply p).length = 9 := rfl

/-- One more reply keeps the history a sequence of whole replies (44_transmit.md R181). -/
theorem whole_replies_append {p : Params} {l : List Byte} (h : l = (List.replicate (l.length / 9) (reply p)).flatten) :
    l ++ reply p = (List.replicate ((l ++ reply p).length / 9) (reply p)).flatten := by
  have hlen : (l ++ reply p).length / 9 = l.length / 9 + 1 := by simp
  rw [hlen, List.replicate_succ', List.flatten_append, ← h, List.flatten_singleton]

theorem Inv.stepEvent (h : Inv s) (hm : s.fsm = .event) : Inv s.stepEvent := by
  obtain ⟨hsized, hv, hout⟩ := h.parse.event hm
  unfold State.stepEvent
  split
  next hready =>
    exact { h with
      parsing := fun _ => h.parsing (by rw [hm]; decide)
      tx_waits := absurd rfl
      tx_pending := by simp [h.tx_waits (by rw [hm]; decide)]
      tx_log := whole_replies_append h.tx_log
      parse := by
        constructor <;> intro hm' <;> cases hm'
        exact ⟨hsized, hv, hout, hready⟩ }
  next =>
    refine h.engine hm ?_
    constructor <;> intro hm' <;> cases hm'
    exact .inr (.inr ⟨State.Sized.head?_snap hsized, hout.trans hv.symm⟩)

theorem Inv.stepTx (h : Inv s) (hm : s.fsm = .tx) : Inv s.stepTx := by
  obtain ⟨hsized, hv, hout, -⟩ := h.parse.tx hm
  unfold State.stepTx
  split
  next htx =>
    exact { h with
      parsing := fun _ => h.parsing (by rw [hm]; decide)
      tx_waits := fun _ => htx
      parse := by
        constructor <;> intro hm' <;> cases hm'
        exact .inr (.inr ⟨State.Sized.head?_snap hsized, hout.trans hv.symm⟩) }
  next => exact h

theorem Inv.stepDone (h : Inv s) (hm : s.fsm = .done) : Inv s.stepDone :=
  { h with
    cp_request := rfl
    parsing := absurd rfl
    tx_waits := fun _ => h.tx_waits (by rw [hm]; decide)
    parse := .of_idle rfl }

/-! ## Every step -/

/-- One transition of the engine keeps the invariant. -/
theorem Inv.parseStep (h : Inv s) : Inv s.parseStep := by
  unfold State.parseStep
  split
  next => exact h
  next hm => exact h.stepSnap1 hm
  next hm => exact h.stepScan hm
  next hm => exact h.stepDropAll hm
  next hm => exact h.stepDropPrefix hm
  next hm => exact h.stepSnap2 hm
  next hm => exact h.stepHdr hm
  next hm => exact h.stepDropOne hm
  next hm => exact h.stepLen hm
  next hm => exact h.stepData hm
  next hm => exact h.stepCommit hm
  next hm => exact h.stepEvent hm
  next hm => exact h.stepTx hm
  next hm => exact h.stepDone hm

/-- Every event keeps the invariant. -/
theorem Inv.perform {t : State} {e : Event} (h : Inv s) (hs : s.perform e = .next t) : Inv t := by
  cases e with
  | rx b => cases hs; exact h.rxByte b
  | rxService =>
    rw [State.perform_rxService_eq_ite] at hs
    split at hs
    · exact h.rxService hs
    · cases hs; exact h
  | request p w => cases hs; exact h.placeRequest p w
  | serve p =>
    cases p with
    | pp => exact h.serveRequest_pp hs
    | cp =>
      by_cases hm : s.fsm = .idle
      · exact h.serveRequest_cp hm (State.serve_cp_idle hm ▸ hs)
      · cases (State.serve_cp_parsing hm).symm.trans hs
        exact h.parseStep
  | txSink => cases hs; exact h.txSink
  | reset => cases hs; exact (Inv.resetWith h.par_wf).withSched _

end Sys2Proof.Machine
end

section
/-! The invariant of every reachable state. -/

namespace Sys2Proof.Machine

/-- Settles O53: a step idles, performs one event, or resets, and the invariant does not read the schedule. -/
theorem everyStepKeepsTheInvariant : Obligations.EveryStepKeepsTheInvariant := by
  intro s t h hs
  rcases step_next_cases hs with ⟨-, -, rfl⟩ | ⟨e, rest, -, -, hp⟩ | ⟨rest, -, rfl⟩
  · exact h
  · exact (h.withSched rest).perform hp
  · exact (Inv.resetWith h.par_wf).withSched rest

end Sys2Proof.Machine
end

section
/-! The memory model's queue: what each event does to the contents (20_memory.md R46, R52, R55), and that every event is answered. -/

namespace Sys2Proof.Machine

variable {s t u : State}

/-! ## The queue's frame -/

/-- Parameters, cursors, cells and coming events are as they were: the contents of the queue are the same, and so is what comes next. -/
structure State.QueueKept (s t : State) : Prop where
  par : t.par = s.par
  rd : t.rd = s.rd
  wr : t.wr = s.wr
  cell : t.cell = s.cell
  sched : t.sched = s.sched

/-- What a step of the consumer does to the queue: nothing, or the oldest byte leaves. -/
def State.KeepsOrTakes (s t : State) : Prop :=
  s.QueueKept t ∨ (s.empty = false ∧ s.dropFront.QueueKept t)

/-- What a step of the producer does to the queue: nothing, or a byte is appended where there is room. -/
def State.KeepsOrAppends (s t : State) : Prop :=
  s.QueueKept t ∨ ∃ b, s.full = false ∧ (s.append b).QueueKept t

theorem State.QueueKept.refl (s : State) : s.QueueKept s := ⟨rfl, rfl, rfl, rfl, rfl⟩

theorem State.QueueKept.respond (s : State) (p : Port) (r : Response) : s.QueueKept (s.respond p r) := by
  cases p <;> exact ⟨rfl, rfl, rfl, rfl, rfl⟩

theorem State.QueueKept.raise (s : State) (f : Fault) : s.QueueKept (s.raise f) := ⟨rfl, rfl, rfl, rfl, rfl⟩

theorem State.QueueKept.elems (h : s.QueueKept t) : t.elems = s.elems := State.elems_congr h.par h.rd h.wr h.cell

theorem State.QueueKept.holds (h : s.QueueKept t) {q : List Byte} (hq : s.Holds q) : t.Holds q := h.elems.trans hq

theorem State.KeepsOrTakes.sched (h : s.KeepsOrTakes t) : t.sched = s.sched :=
  h.elim (·.sched) fun ⟨_, k⟩ => k.sched

theorem State.KeepsOrAppends.sched (h : s.KeepsOrAppends t) : t.sched = s.sched :=
  h.elim (·.sched) fun ⟨_, _, k⟩ => k.sched

/-- Contents that are not empty, as the byte at their front and the rest. -/
theorem State.Holds.dropFront {q : List Byte} (hc : s.Cursors) (hq : s.Holds q) (he : s.empty = false) :
    ∃ b q', q = b :: q' ∧ s.dropFront.Holds q' := by
  cases q with
  | nil => exact absurd ((State.empty_iff hc).2 hq.length) (by simp [he])
  | cons b q' => exact ⟨b, q', rfl, (State.queueRead_of_holds hc hq).2⟩

/-- The consumer leaves the contents or takes their oldest byte (R55). -/
theorem State.KeepsOrTakes.holds {q : List Byte} (h : s.KeepsOrTakes t) (hc : s.Cursors) (hq : s.Holds q) :
    t.Holds q ∨ ∃ b q', q = b :: q' ∧ t.Holds q' := by
  rcases h with k | ⟨he, k⟩
  · exact .inl (k.holds hq)
  · obtain ⟨b, q', rfl, hq'⟩ := hq.dropFront hc he
    exact .inr ⟨b, q', rfl, k.holds hq'⟩

/-- The producer leaves the contents or appends one byte at their end (R55). -/
theorem State.KeepsOrAppends.holds {q : List Byte} (h : s.KeepsOrAppends t) (hc : s.Cursors) (hq : s.Holds q) :
    t.Holds q ∨ ∃ b, t.Holds (q ++ [b]) := by
  rcases h with k | ⟨b, hf, k⟩
  · exact .inl (k.holds hq)
  · exact .inr ⟨b, k.holds (State.append_holds hc hf hq b)⟩

/-- Right after reset the queue holds nothing (70_reset_and_hazards.md R215). -/
theorem State.resetWith_holds {p : Params} (hp : p.wf = true) : (State.resetWith p).Holds [] :=
  List.eq_nil_of_length_eq_zero ((State.elems_length _).trans (State.resetWith_status hp).1)

/-! ## The producer -/

theorem State.serveRequest_pp_keepsOrAppends (h : s.serveRequest .pp = .next t) : s.KeepsOrAppends t := by
  rcases s.serveRequest_pp_cases with h' | ⟨r, h'⟩ | ⟨b, hf, h'⟩ <;> cases h'.symm.trans h
  · exact .inl (.refl s)
  · exact .inl (.respond s .pp r)
  · exact .inr ⟨b, hf, .respond _ .pp _⟩

theorem State.rxService_keepsOrAppends (h : s.rxService = .next t) : s.KeepsOrAppends t := by
  rcases s.rxService_cases with h' | ⟨b, rest, -, -, h'⟩ | ⟨b, rest, -, hf, h'⟩ <;> cases h'.symm.trans h
  · exact .inl (.refl s)
  · exact .inl ⟨rfl, rfl, rfl, rfl, rfl⟩
  · exact .inr ⟨b, hf, rfl, rfl, rfl, rfl, rfl⟩

/-! ## The consumer -/

theorem exec_cp_keepsOrTakes {i : Instr} (hi : i.port = .cp) (h : exec i s = .next t) : s.KeepsOrTakes t := by
  rcases exec_cp_cases hi s with ⟨j, -, -, h'⟩ | ⟨r, h'⟩ | ⟨r, he, h'⟩ | ⟨-, h'⟩ <;> cases h'.symm.trans h
  · exact .inl (.raise s _)
  · exact .inl (.respond s .cp r)
  · exact .inr ⟨he, .respond _ .cp r⟩
  · exact .inl ⟨rfl, rfl, rfl, rfl, rfl⟩

theorem State.serveRequest_cp_keepsOrTakes (h : s.serveRequest .cp = .next t) : s.KeepsOrTakes t := by
  rcases s.serveRequest_cp_cases with h' | h' | ⟨i, hi, -, h'⟩
  · cases h'.symm.trans h; exact .inl (.refl s)
  · cases h'.symm.trans h; exact .inl (.respond s .cp _)
  · exact exec_cp_keepsOrTakes hi (h'.symm.trans h)

/-- A READ inside PARSE takes one byte at most, when what follows it leaves the queue alone (43_framer.md R156). -/
theorem State.parseRead_keepsOrTakes {after : State → State} (ha : ∀ u : State, u.QueueKept (after u)) :
    s.KeepsOrTakes (s.parseRead after) := by
  rcases s.parseRead_cases after with ⟨-, h⟩ | ⟨-, -, h⟩ | ⟨b, he, -, h⟩ <;> rw [h]
  · exact .inl (ha s)
  · exact .inl (.raise s _)
  · exact .inr ⟨he, ha s.dropFront⟩

theorem State.parseReads_keepsOrTakes {exit : State → State} (ha : ∀ u : State, u.QueueKept (exit u)) :
    s.KeepsOrTakes (s.parseReads exit) := by
  unfold State.parseReads
  split
  · exact .inl (ha s)
  · exact State.parseRead_keepsOrTakes fun _ => ⟨rfl, rfl, rfl, rfl, rfl⟩

/-- One transition of the engine takes one byte at most, and only in the four states that READ (43_framer.md R140). -/
theorem State.parseStep_keepsOrTakes (s : State) : s.KeepsOrTakes s.parseStep := by
  cases hm : s.fsm with
  | dropAll | dropPrefix | commit =>
    simp only [State.parseStep, hm]
    exact State.parseReads_keepsOrTakes fun _ => ⟨rfl, rfl, rfl, rfl, rfl⟩
  | dropOne =>
    simp only [State.parseStep, hm]
    exact State.parseRead_keepsOrTakes fun _ => ⟨rfl, rfl, rfl, rfl, rfl⟩
  | idle | done =>
    simp only [State.parseStep, hm]
    exact .inl ⟨rfl, rfl, rfl, rfl, rfl⟩
  | scan | hdr | data | event | tx =>
    simp only [State.parseStep, hm, State.stepScan, State.stepHdr, State.stepData, State.stepEvent, State.stepTx]
    split <;> exact .inl ⟨rfl, rfl, rfl, rfl, rfl⟩
  | snap1 | snap2 | len =>
    simp only [State.parseStep, hm, State.stepSnap1, State.stepSnap2, State.stepLen]
    split
    · exact .inl ⟨rfl, rfl, rfl, rfl, rfl⟩
    · split <;> exact .inl ⟨rfl, rfl, rfl, rfl, rfl⟩

theorem State.serve_cp_keepsOrTakes (h : s.serve .cp = .next t) : s.KeepsOrTakes t := by
  by_cases hm : s.fsm = .idle
  · exact State.serveRequest_cp_keepsOrTakes (State.serve_cp_idle hm ▸ h)
  · cases (State.serve_cp_parsing hm).symm.trans h
    exact s.parseStep_keepsOrTakes

/-! ## Every event -/

theorem State.placeRequest_queueKept (s : State) (p : Port) (w : Word) : s.QueueKept (s.placeRequest p w) := by
  rw [State.placeRequest_eq_ite]
  split
  · exact .refl s
  · cases p <;> exact ⟨rfl, rfl, rfl, rfl, rfl⟩

theorem State.rxByte_queueKept (s : State) (b : Byte) : s.QueueKept (s.rxByte b) := by
  unfold State.rxByte
  split <;> exact ⟨rfl, rfl, rfl, rfl, rfl⟩

/-- Every event but a reset leaves the queue alone, or is a step of the consumer that takes one byte at most, or a step of the
producer that appends one byte at most (R55). -/
theorem State.perform_queue {e : Event} (he : e ≠ .reset) (h : s.perform e = .next t) :
    s.QueueKept t ∨ (e = .serve .cp ∧ s.KeepsOrTakes t) ∨ ((e = .serve .pp ∨ e = .rxService) ∧ s.KeepsOrAppends t) := by
  cases e with
  | rx b => cases h; exact .inl (s.rxByte_queueKept b)
  | rxService =>
    rw [State.perform_rxService_eq_ite] at h
    split at h
    · exact .inr (.inr ⟨.inr rfl, State.rxService_keepsOrAppends h⟩)
    · cases h; exact .inl (.refl s)
  | request p w => cases h; exact .inl (s.placeRequest_queueKept p w)
  | serve p =>
    cases p with
    | pp => exact .inr (.inr ⟨.inl rfl, State.serveRequest_pp_keepsOrAppends h⟩)
    | cp => exact .inr (.inl ⟨rfl, State.serve_cp_keepsOrTakes h⟩)
  | txSink => cases h; exact .inl ⟨rfl, rfl, rfl, rfl, rfl⟩
  | reset => exact absurd rfl he

/-- No event changes what comes after it. -/
theorem State.perform_sched {e : Event} (h : s.perform e = .next t) : t.sched = s.sched := by
  by_cases he : e = .reset
  · subst he; cases h; rfl
  · rcases State.perform_queue he h with k | ⟨-, k⟩ | ⟨-, k⟩ <;> exact k.sched

/-! ## Every event is answered by a next state -/

theorem State.serveRequest_next (s : State) (p : Port) : ∃ t, s.serveRequest p = .next t := by
  cases p with
  | pp => rcases s.serveRequest_pp_cases with h | ⟨r, h⟩ | ⟨b, -, h⟩ <;> exact ⟨_, h⟩
  | cp =>
    rcases s.serveRequest_cp_cases with h | h | ⟨i, hi, -, h⟩
    · exact ⟨_, h⟩
    · exact ⟨_, h⟩
    · rcases exec_cp_cases hi s with ⟨j, -, -, h'⟩ | ⟨r, h'⟩ | ⟨r, -, h'⟩ | ⟨-, h'⟩ <;> exact ⟨_, h.trans h'⟩

theorem State.perform_next (s : State) (e : Event) : ∃ t, s.perform e = .next t := by
  cases e with
  | rx b | request p w | txSink | reset => exact ⟨_, rfl⟩
  | rxService =>
    rw [State.perform_rxService_eq_ite]
    split
    · rcases s.rxService_cases with h | ⟨b, rest, -, -, h⟩ | ⟨b, rest, -, -, h⟩ <;> exact ⟨_, h⟩
    · exact ⟨_, rfl⟩
  | serve p =>
    cases p with
    | pp => exact s.serveRequest_next .pp
    | cp =>
      by_cases hm : s.fsm = .idle
      · rw [State.perform, State.serve_cp_idle hm]; exact s.serveRequest_next .cp
      · exact ⟨_, State.serve_cp_parsing hm⟩

/-! ## Runs -/

/-- A run of one step more, on any core, begins with that step. -/
theorem run_succ_of_step {M : Host.Core} {σ τ : M.State} {n : Nat} (h : M.step σ = .next τ) : M.run (n + 1) σ = M.run n τ := by
  rw [Host.Core.run, h]

theorem runEvents_nil (s : State) : runEvents s [] = .next (s.withSched []) := rfl

/-- A run performs its first event and goes on from there. -/
theorem runEvents_cons {e : Event} {es : List Event} (hf : s.fault = none) (h : (s.withSched es).perform e = .next t) :
    runEvents s (e :: es) = runEvents t es := by
  have hstep : step (s.withSched (e :: es)) = .next t := (step_of_cons (s := s.withSched (e :: es)) hf rfl).trans h
  have hsched : t.withSched es = t := by
    have hes : t.sched = es := State.perform_sched h
    rw [State.withSched, ← hes]
  have hrun : runEvents s (e :: es) = Host.Core.run Sys2Proof.core es.length t :=
    run_succ_of_step (M := Sys2Proof.core) (σ := s.withSched (e :: es)) (τ := t) hstep
  rw [hrun, runEvents, hsched]

end Sys2Proof.Machine
end

section
/-! Reads of cells that hold `⊥` (20_memory.md R47), and the operations that only read (R53). -/

namespace Sys2Proof.Machine

variable {s u : State}

/-! ## A cell that holds `⊥` -/

/-- READ of a queue that is not empty and whose front cell holds `⊥`. -/
theorem State.queueRead_error (he : s.empty = false) (hm : Memory.read s.cell (s.elemCell 0) = none) :
    s.queueRead = .error (.uninitRead (s.elemCell 0)) := by
  simp [State.queueRead, State.memRead, he, hm]

/-- A run of MemReads raises the fault of the first cell it reads that holds `⊥`. -/
theorem State.readElems_first_error {n k j : Nat} (hk : k ≤ j) (hj : j < k + n)
    (hm : Memory.read s.cell (s.elemCell j) = none) (hb : ∀ i, k ≤ i → i < j → (Memory.read s.cell (s.elemCell i)).isSome = true) :
    s.readElems k n = .error (.uninitRead (s.elemCell j)) := by
  induction n generalizing k with
  | zero => omega
  | succ n ih =>
    rcases hk.eq_or_lt with rfl | hlt
    · simp [State.readElems, State.memRead, hm]
    · obtain ⟨b, hread⟩ := Option.isSome_iff_exists.1 (hb k le_rfl hlt)
      have hrest := ih hlt (by omega) fun i hi => hb i (by omega)
      simp [State.readElems, State.memRead, hread, hrest]

/-! ## The operations that only read the queue -/

/-- A run of MemReads depends on the queue only. -/
theorem State.QueueKept.readElems (h : s.QueueKept u) (j n : Nat) : u.readElems j n = s.readElems j n := by
  induction n generalizing j with
  | zero => rfl
  | succ n ih => simp only [State.readElems, State.memRead, State.elemCell, h.par, h.rd, h.cell, ih]

theorem State.QueueKept.len (h : s.QueueKept u) : u.len = s.len := by rw [State.len, h.par, h.rd, h.wr, State.len]

theorem State.QueueKept.empty (h : s.QueueKept u) : u.empty = s.empty := by rw [State.empty, h.rd, h.wr, State.empty]

/-- The cell PEEK reads, and what it holds, depend on the queue only. -/
theorem State.QueueKept.readFront (h : s.QueueKept u) :
    Memory.read u.cell (u.elemCell 0) = Memory.read s.cell (s.elemCell 0) := by
  rw [State.elemCell, h.cell, h.rd, h.par, State.elemCell]

/-- PEEK depends on the queue only: in two states with the same queue it gives the same response. -/
theorem execPeek_readOnly (s : State) :
    (∃ f, exec .peek s = .next (s.raise f)) ∨ ∃ r, ∀ u, s.QueueKept u → exec .peek u = .next (u.respond .cp r) := by
  rcases execPeek_cases s with ⟨he, -⟩ | ⟨-, -, h⟩ | ⟨b, he, hb, -⟩
  · refine .inr ⟨.nothing, fun u hu => ?_⟩
    simp [exec, execPeek, State.queueRead, hu.empty, he, byteResponse]
  · exact .inl ⟨_, h⟩
  · refine .inr ⟨.byte b, fun u hu => ?_⟩
    simp [exec, execPeek, State.queueRead, State.memRead, hu.empty, he, hu.readFront, hb, byteResponse]

/-- Each of PEEK, SNAPSHOT, ITERATE and LEN raises a fault, or gives a response that depends on the queue only and changes nothing
but its port. -/
theorem exec_readOnly {i : Instr} {m : Byte} (hi : i ∈ [.peek, .snapshot m, .iterate, .len]) (s : State) :
    (∃ f, exec i s = .next (s.raise f)) ∨ ∃ r, ∀ u, s.QueueKept u → exec i u = .next (u.respond .cp r) := by
  simp only [List.mem_cons, List.not_mem_nil, or_false] at hi
  rcases hi with rfl | rfl | rfl | rfl
  · exact execPeek_readOnly s
  · rcases hr : s.snapshot (countOperand m) with f | bs
    · exact .inl ⟨f, by simp only [exec, execSnapshot, hr]⟩
    · refine .inr ⟨.bytes bs, fun u hu => ?_⟩
      have hru : u.snapshot (countOperand m) = .ok bs := by rw [State.snapshot, hu.readElems, hu.len]; exact hr
      simp only [exec, execSnapshot, hru]
  · rcases hr : s.readElems 0 s.len with f | bs
    · exact .inl ⟨f, by simp only [exec, execIterate, hr]⟩
    · refine .inr ⟨.bytes bs, fun u hu => ?_⟩
      simp only [exec, execIterate, hu.readElems, hu.len, hr]
  · exact .inr ⟨.count s.len, fun u hu => by rw [exec, execLen, hu.len]⟩

end Sys2Proof.Machine
end

section
/-! The queue as a memory: first in, first out, and what a read of it gives. -/

namespace Sys2Proof.Machine

/-- Settles O56: the step performs its event, and only the agents' own steps and a reset touch the queue. -/
theorem contentsAreFirstInFirstOut : Obligations.ContentsAreFirstInFirstOut := by
  intro s t q e rest hinv hq hs hstep
  rw [step_of_cons hinv.no_fault hs] at hstep
  by_cases he : e = .reset
  · subst he
    cases hstep
    exact .inr (.inr (.inr ⟨State.resetWith_holds hinv.par_wf, rfl⟩))
  · have hc := (hinv.withSched rest).cursors
    have hq' : (s.withSched rest).Holds q := hq
    rcases State.perform_queue he hstep with k | ⟨hcp, k⟩ | ⟨hpp, k⟩
    · exact .inl (k.holds hq')
    · rcases k.holds hc hq' with hkept | ⟨b, q', hqb, htaken⟩
      · exact .inl hkept
      · exact .inr (.inr (.inl ⟨b, q', hqb, htaken, hcp⟩))
    · rcases k.holds hc hq' with hkept | ⟨b, happended⟩
      · exact .inl hkept
      · exact .inr (.inl ⟨b, happended, hpp⟩)

/-- An event that is no step of the consumer and no reset leaves the contents at the front of the queue (20_memory.md R57). -/
theorem State.perform_holds_append {s t : State} {e : Event} {q : List Byte} (hc : s.Cursors) (hq : s.Holds q)
    (hcp : e ≠ .serve .cp) (he : e ≠ .reset) (h : s.perform e = .next t) : ∃ more, t.Holds (q ++ more) := by
  have hkept (hq' : t.Holds q) : ∃ more, t.Holds (q ++ more) := ⟨[], by rwa [List.append_nil]⟩
  rcases State.perform_queue he h with k | ⟨hcp', -⟩ | ⟨-, k⟩
  · exact hkept (k.holds hq)
  · exact absurd hcp' hcp
  · exact (k.holds hc hq).elim hkept fun ⟨b, hb⟩ => ⟨[b], hb⟩

/-- Settles O57, by induction on the events: each one is answered, keeps the invariant and leaves the contents in front. -/
theorem queuedBytesStayInFront : Obligations.QueuedBytesStayInFront := by
  intro s q es hinv hq hcp hreset
  induction es generalizing s q with
  | nil => exact ⟨s.withSched [], [], runEvents_nil s, by rw [List.append_nil]; exact hq⟩
  | cons e es ih =>
    rw [List.mem_cons, not_or] at hcp hreset
    have hinv' := hinv.withSched es
    obtain ⟨t, ht⟩ := (s.withSched es).perform_next e
    obtain ⟨more, hmore⟩ := State.perform_holds_append hinv'.cursors (q := q) hq (Ne.symm hcp.1) (Ne.symm hreset.1) ht
    obtain ⟨u, more', hrun, hu⟩ := ih t (q ++ more) (hinv'.perform ht) hmore hcp.2 hreset.2
    exact ⟨u, more ++ more', (runEvents_cons hinv.no_fault ht).trans hrun, by rwa [← List.append_assoc]⟩

/-- Settles O24: WRITE and READ on the contents, in every position of the cursors. -/
theorem writeAppendsAndReadTakesTheOldest : Obligations.WriteAppendsAndReadTakesTheOldest := by
  intro s q b hr hw
  have hc : s.Cursors := ⟨hr, hw⟩
  constructor
  · intro hq hf
    obtain ⟨-, hwrite⟩ := (execWrite_cases b s).resolve_left (by simp [hf])
    exact ⟨_, hwrite, rfl, (State.QueueKept.respond ..).holds (State.append_holds hc hf hq b)⟩
  · intro hq
    obtain ⟨hread, hrest⟩ := State.queueRead_of_holds hc hq
    have hexec : exec .read s = .next (s.dropFront.respond .cp (.byte b)) := by
      simp only [exec, execRead, hread, byteResponse]
    exact ⟨_, hexec, rfl, (State.QueueKept.respond ..).holds hrest⟩

/-- Settles O21: the response depends on the queue only, which the first of the two operations leaves as it was. -/
theorem readOnlyOperationsRepeat : Obligations.ReadOnlyOperationsRepeat := by
  intro s t i m w hi h hf
  rcases exec_readOnly hi s with ⟨f, h'⟩ | ⟨r, hr⟩
  · cases h'.symm.trans h
    cases hf
  · cases (hr s (.refl s)).symm.trans h
    exact ⟨rfl, hr _ ⟨rfl, rfl, rfl, rfl, rfl⟩⟩

/-- Settles O22: both operations begin with the same MemRead of `CELL[RD]`. -/
theorem readOfUninitializedCellRaises : Obligations.ReadOfUninitializedCellRaises := by
  intro s hlt hne hm
  have hcell : s.elemCell 0 = s.rd := Nat.mod_eq_of_lt hlt
  have hread := State.queueRead_error (s := s) (beq_false_of_ne hne) (by rw [hcell]; exact hm)
  rw [hcell] at hread
  constructor
  · simp only [exec, execRead, hread, State.raise]
  · simp only [exec, execPeek, hread, State.raise]

/-- Settles O23: both operations read the elements in order, and the `j`th is the first that holds `⊥`. -/
theorem copyOfUninitializedCellRaises : Obligations.CopyOfUninitializedCellRaises := by
  intro s j hj hm hb
  have hread (n : Nat) (hn : j < n) : s.readElems 0 n = .error (.uninitRead (s.elemCell j)) :=
    State.readElems_first_error (Nat.zero_le j) (by omega) hm fun i _ => hb i
  constructor
  · simp only [exec, execIterate, hread s.len hj, State.raise]
  · intro m hjm
    have hsnap : s.snapshot (countOperand m) = .error (.uninitRead (s.elemCell j)) := hread _ (lt_min hjm hj)
    simp only [exec, execSnapshot, hsnap, State.raise]

end Sys2Proof.Machine
end

section
/-! What the decoder accepts and what it rejects: the encodings, their fields, and the rows of the opcode table. -/

namespace Sys2Proof

/-! ## Decode and encode agree -/

/-- An encoded operation decodes on its own port to itself: its reserved bits are 0, and its `OP` and port select its row. -/
theorem decode_encode (i : Instr) : decode i.port (encode i) = .ok i := by
  cases i with
  | write b | snapshot b =>
    simp [decode, encode, Instr.port, opField_commandWord, rsvField_commandWord, argField_commandWord]
  | read | peek | iterate | len | parse => decide

/-- The decoder is the inverse of the encoder, port by port. -/
theorem decode_eq_ok_iff {p : Port} {w : Word} {i : Instr} : decode p w = .ok i ↔ encode i = w ∧ i.port = p := by
  refine ⟨encode_of_decode, ?_⟩
  rintro ⟨rfl, rfl⟩
  exact decode_encode i

/-- Settles O1, by the operation. -/
theorem decodeOfEncodeIsTheInstruction : Obligations.DecodeOfEncodeIsTheInstruction := decode_encode

/-- Settles O2, by the row that accepts the word. -/
theorem encodeOfDecodeIsTheWord : Obligations.EncodeOfDecodeIsTheWord := fun _ _ _ => encode_of_decode

/-- Settles O5, on the thirteen words. -/
theorem sampleWordsDecode : Obligations.SampleWordsDecode := by
  unfold Obligations.SampleWordsDecode
  decide

/-! ## The accepted words, by their fields -/

/-- The fields of the words a port accepts (30_encoding.md R74). -/
def LegalFields (p : Port) (op rsv : BitVec 4) (arg : Byte) : Prop :=
  rsv = 0 ∧ ((p = .pp ∧ op = 0x1) ∨ (p = .cp ∧ op = 0x4) ∨ (p = .cp ∧ op ∈ [0x2, 0x3, 0x5, 0x6, 0x7] ∧ arg = 0))

theorem legalFields_encode (i : Instr) :
    LegalFields i.port (opField (encode i)) (rsvField (encode i)) (argField (encode i)) := by
  cases i <;>
    simp [LegalFields, encode, Instr.port, opField_commandWord, rsvField_commandWord, argField_commandWord]

/-- Legal fields are those of some operation of the port. -/
theorem exists_encode_of_legalFields {p : Port} {w : Word} (h : LegalFields p (opField w) (rsvField w) (argField w)) :
    ∃ i, encode i = w ∧ i.port = p := by
  obtain ⟨hr, hrow⟩ := h
  have hw := commandWord_of_fields hr
  rcases hrow with ⟨rfl, hop⟩ | ⟨rfl, hop⟩ | ⟨rfl, hop, harg⟩
  · exact ⟨.write (argField w), by rw [hop] at hw; exact hw, rfl⟩
  · exact ⟨.snapshot (argField w), by rw [hop] at hw; exact hw, rfl⟩
  · rw [harg] at hw
    simp only [List.mem_cons, List.not_mem_nil, or_false] at hop
    rcases hop with hop | hop | hop | hop | hop <;> rw [hop] at hw
    · exact ⟨.read, hw, rfl⟩
    · exact ⟨.peek, hw, rfl⟩
    · exact ⟨.iterate, hw, rfl⟩
    · exact ⟨.len, hw, rfl⟩
    · exact ⟨.parse, hw, rfl⟩

/-- The decoder accepts a word exactly when its fields are legal on the port. -/
theorem decode_ok_iff_legalFields {p : Port} {w : Word} :
    (∃ i, decode p w = .ok i) ↔ LegalFields p (opField w) (rsvField w) (argField w) := by
  simp only [decode_eq_ok_iff]
  refine ⟨?_, exists_encode_of_legalFields⟩
  rintro ⟨i, rfl, rfl⟩
  exact legalFields_encode i

/-! ## The rows of the opcode table -/

/-- A word is its three fields (30_encoding.md R73). -/
theorem word_eq_iff_fields {v w : Word} :
    v = w ↔ opField v = opField w ∧ rsvField v = rsvField w ∧ argField v = argField w := by
  refine ⟨by rintro rfl; exact ⟨rfl, rfl, rfl⟩, fun ⟨hop, hrsv, harg⟩ => ?_⟩
  have hop' := congrArg BitVec.toNat hop
  have hrsv' := congrArg BitVec.toNat hrsv
  have harg' := congrArg BitVec.toNat harg
  rw [opField_toNat, opField_toNat] at hop'
  rw [rsvField_toNat, rsvField_toNat] at hrsv'
  rw [argField_toNat, argField_toNat] at harg'
  exact BitVec.eq_of_toNat_eq (by omega)

theorem opField_and (v w : Word) : opField (v &&& w) = opField v &&& opField w := BitVec.extractLsb'_and ..
theorem rsvField_and (v w : Word) : rsvField (v &&& w) = rsvField v &&& rsvField w := BitVec.extractLsb'_and ..
theorem argField_and (v w : Word) : argField (v &&& w) = argField v &&& argField w := BitVec.extractLsb'_and ..

/-- A row with an operand fixes `OP` and `RSV` and leaves `ARG` free. -/
theorem masked_eq_operandRow {w : Word} {op : BitVec 4} :
    w &&& 0xFF00 = commandWord op 0 ↔ rsvField w = 0 ∧ opField w = op := by
  have hm : opField 0xFF00 = BitVec.allOnes 4 ∧ rsvField 0xFF00 = BitVec.allOnes 4 ∧ argField 0xFF00 = 0 := by decide
  obtain ⟨hop, hrsv, harg⟩ := hm
  rw [word_eq_iff_fields, opField_and, rsvField_and, argField_and, hop, hrsv, harg, opField_commandWord, rsvField_commandWord,
    argField_commandWord, BitVec.and_allOnes, BitVec.and_allOnes]
  simp [and_comm]

/-- A row without an operand fixes the whole word. -/
theorem masked_eq_fixedRow {w : Word} {op : BitVec 4} :
    w &&& 0xFFFF = commandWord op 0 ↔ rsvField w = 0 ∧ opField w = op ∧ argField w = 0 := by
  have hm : (0xFFFF : Word) = BitVec.allOnes 16 := rfl
  rw [hm, BitVec.and_allOnes, word_eq_iff_fields, opField_commandWord, rsvField_commandWord, argField_commandWord,
    and_left_comm]

/-- The table's rows, with their patterns written as the words they are. -/
theorem opcodeTable_eq : opcodeTable =
    [⟨"WRITE", .pp, 0xFF00, commandWord 0x1 0⟩, ⟨"READ", .cp, 0xFFFF, commandWord 0x2 0⟩,
     ⟨"PEEK", .cp, 0xFFFF, commandWord 0x3 0⟩, ⟨"SNAPSHOT", .cp, 0xFF00, commandWord 0x4 0⟩,
     ⟨"ITERATE", .cp, 0xFFFF, commandWord 0x5 0⟩, ⟨"LEN", .cp, 0xFFFF, commandWord 0x6 0⟩,
     ⟨"PARSE", .cp, 0xFFFF, commandWord 0x7 0⟩] := rfl

theorem accepts_iff {r : OpcodeRow} {p : Port} {w : Word} : r.accepts p w = true ↔ p = r.port ∧ w &&& r.mask = r.pattern := by
  rw [OpcodeRow.accepts, Bool.and_eq_true, beq_iff_eq, beq_iff_eq, eq_comm (a := p)]

/-- A word matches a row of the table exactly when its fields are legal on the row's port. -/
theorem row_accepts_iff_legalFields {p : Port} {w : Word} :
    (∃ r ∈ opcodeTable, r.accepts p w = true) ↔ LegalFields p (opField w) (rsvField w) (argField w) := by
  rw [opcodeTable_eq]
  simp only [accepts_iff, List.mem_cons, List.not_mem_nil, or_false, or_and_right, exists_or, exists_eq_left,
    masked_eq_operandRow, masked_eq_fixedRow, LegalFields]
  -- the same rows, grouped by what they ask of `ARG`
  itauto

/-- Settles O3: both sides say that the word's fields are legal. -/
theorem decodeAcceptsExactlyTheOpcodeTable : Obligations.DecodeAcceptsExactlyTheOpcodeTable := fun _ _ =>
  decode_ok_iff_legalFields.trans row_accepts_iff_legalFields.symm

/-! ## The rejected words -/

theorem decode_error_iff_not_ok {p : Port} {w : Word} : (∃ e, decode p w = .error e) ↔ ¬ ∃ i, decode p w = .ok i := by
  cases decode p w <;> simp

/-- The kinds of `OP`: WRITE's, SNAPSHOT's, those of the rows without an operand, and those of no row (30_encoding.md R74, R77). -/
theorem op_kinds (op : BitVec 4) :
    op = 0x1 ∨ op = 0x4 ∨ op ∈ [0x2, 0x3, 0x5, 0x6, 0x7] ∨ (op = 0 ∨ 8 ≤ op.toNat) := by
  revert op
  decide

/-- No port has an operation with an unknown `OP`. -/
theorem not_legalFields_of_unknownOp {p : Port} {op rsv : BitVec 4} {arg : Byte} (h : op = 0 ∨ 8 ≤ op.toNat) :
    ¬ LegalFields p op rsv arg := by
  have hop : op ≠ 0x1 ∧ op ≠ 0x4 ∧ op ∉ [0x2, 0x3, 0x5, 0x6, 0x7] := by revert op; decide
  obtain ⟨hwrite, hsnapshot, hfixed⟩ := hop
  rintro ⟨-, ⟨-, h⟩ | ⟨-, h⟩ | ⟨-, h, -⟩⟩
  · exact hwrite h
  · exact hsnapshot h
  · exact hfixed h

/-- Settles O4, by the kind of `OP`: an unknown one is never legal, and each other one is legal on its port with `RSV` 0 and,
without an operand, `ARG` 0. -/
theorem illegalWordsAreExactlyThoseNamed : Obligations.IllegalWordsAreExactlyThoseNamed := by
  intro p w
  rw [decode_error_iff_not_ok, decode_ok_iff_legalFields]
  rcases op_kinds (opField w) with hop | hop | hop | hop
  · cases p <;> simp [LegalFields, hop]
  · cases p <;> simp [LegalFields, hop]
  · simp only [List.mem_cons, List.not_mem_nil, or_false] at hop
    rcases hop with hop | hop | hop | hop | hop <;> cases p <;> simp [LegalFields, hop, imp_iff_not_or]
  · exact iff_of_true (not_legalFields_of_unknownOp hop) (.inl hop)

end Sys2Proof
end

section
/-! Frames on the wire (30_encoding.md R65 to R71), field by field. -/

namespace Sys2Proof.Machine

/-! ## The frame of a packet -/

/-- The frame as its six bytes before the data, then the data, the optional data and their CRC (R65, R66). -/
theorem frameBytes_eq_cons (p : Params) (k : Packet) :
    frameBytes p k = syncByte :: BitVec.ofNat 8 (k.data.length / 256) :: BitVec.ofNat 8 k.data.length ::
      BitVec.ofNat 8 k.optionalData.length :: k.packetType :: crc8 p (headerBytes k) ::
      (k.data ++ (k.optionalData ++ [crc8 p (k.data ++ k.optionalData)])) := by
  simp [frameBytes, headerBytes]

theorem frameBytes_length (p : Params) (k : Packet) :
    (frameBytes p k).length = 7 + k.data.length + k.optionalData.length := by
  rw [frameBytes_eq_cons]
  simp only [List.length_cons, List.length_append, List.length_nil]
  omega

/-- A 16-bit number is read back from its two bytes, the high one first (20_memory.md R48). -/
theorem be16_toNat {n : Nat} (h : n < 65536) : (be16 (BitVec.ofNat 8 (n / 256)) (BitVec.ofNat 8 n)).toNat = n := by
  simp [be16, BitVec.toNat_add, BitVec.toNat_mul]
  omega

theorem packet_wf_iff {k : Packet} : k.wf = true ↔ k.data.length < 65536 ∧ k.optionalData.length < 256 := by
  simp [Packet.wf]

theorem frameDL_frameBytes (p : Params) {k : Packet} (h : k.wf = true) : (frameDL (frameBytes p k)).toNat = k.data.length := by
  rw [frameBytes_eq_cons]
  exact be16_toNat (packet_wf_iff.1 h).1

theorem frameOL_frameBytes (p : Params) {k : Packet} (h : k.wf = true) :
    (frameOL (frameBytes p k)).toNat = k.optionalData.length := by
  rw [frameBytes_eq_cons]
  exact (BitVec.toNat_ofNat _ _).trans (Nat.mod_eq_of_lt (packet_wf_iff.1 h).2)

/-- The header CRC covers the four header bytes and neither the sync byte nor the data. -/
theorem slice_header_frameBytes (p : Params) (k : Packet) : slice (frameBytes p k) 1 5 = headerBytes k := rfl

theorem drop_six_frameBytes (p : Params) (k : Packet) :
    (frameBytes p k).drop 6 = k.data ++ (k.optionalData ++ [crc8 p (k.data ++ k.optionalData)]) := by
  rw [frameBytes_eq_cons]
  rfl

theorem slice_data_frameBytes (p : Params) (k : Packet) : slice (frameBytes p k) 6 (6 + k.data.length) = k.data := by
  rw [slice, drop_six_frameBytes, Nat.add_sub_cancel_left, List.take_left]

theorem slice_optionalData_frameBytes (p : Params) (k : Packet) :
    slice (frameBytes p k) (6 + k.data.length) (6 + k.data.length + k.optionalData.length) = k.optionalData := by
  rw [slice, ← List.drop_drop, drop_six_frameBytes, List.drop_left, Nat.add_sub_cancel_left, List.take_left]

/-- The data CRC covers the data and the optional data, and nothing else. -/
theorem slice_payload_frameBytes (p : Params) (k : Packet) :
    slice (frameBytes p k) 6 (6 + k.data.length + k.optionalData.length) = k.data ++ k.optionalData := by
  have hlen : 6 + k.data.length + k.optionalData.length - 6 = (k.data ++ k.optionalData).length := by
    rw [List.length_append]
    omega
  rw [slice, drop_six_frameBytes, hlen, ← List.append_assoc, List.take_left]

theorem frameBytes_dataCrc (p : Params) (k : Packet) :
    (frameBytes p k)[6 + k.data.length + k.optionalData.length]? = some (crc8 p (k.data ++ k.optionalData)) := by
  rw [Nat.add_assoc, ← List.getElem?_drop, drop_six_frameBytes, ← List.append_assoc, ← List.length_append,
    List.getElem?_concat_length]

/-- Settles O6: each field of the frame in turn. -/
theorem frameLayoutIsTheWireFormat : Obligations.FrameLayoutIsTheWireFormat := by
  intro p k h
  have hlength : frameLength (frameDL (frameBytes p k)) (frameOL (frameBytes p k)) =
      7 + k.data.length + k.optionalData.length := by
    rw [frameLength, frameDL_frameBytes p h, frameOL_frameBytes p h]
  have hdataCrc := frameBytes_dataCrc p k
  rw [← slice_payload_frameBytes p k] at hdataCrc
  exact ⟨frameBytes_length p k, rfl, frameDL_frameBytes p h, frameOL_frameBytes p h, rfl, hlength, rfl,
    slice_data_frameBytes p k, slice_optionalData_frameBytes p k, hdataCrc⟩

/-! ## The reply frame -/

/-- The reply frame but for its two CRC bytes is the same on every block (R71). -/
theorem reply_eq_cons (p : Params) :
    reply p = [0x55, 0x00, 0x02, 0x00, 0x05, crc8 p [0x00, 0x02, 0x00, 0x05], 0x3E, 0x01, crc8 p [0x3E, 0x01]] := rfl

/-- CRC8 depends on its polynomial and its initial value only (40_crc8.md R90). -/
theorem crc8_congr {p p' : Params} (hpoly : p.crcPoly = p'.crcPoly) (hinit : p.crcInit = p'.crcInit) (s : List Byte) :
    crc8 p s = crc8 p' s := by
  rw [crc8, crc8, hpoly, hinit]

theorem crc8_default_replyHeader : crc8 .default [0x00, 0x02, 0x00, 0x05] = 0xCD := by decide +kernel

theorem crc8_default_replyData : crc8 .default [0x3E, 0x01] = 0x28 := by decide +kernel

/-- Settles O7: the CRC is the default block's, and its two values are computed. -/
theorem replyFrameIsTheNineBytes : Obligations.ReplyFrameIsTheNineBytes := by
  intro p hpoly hinit
  have hcrc (s : List Byte) : crc8 p s = crc8 .default s := crc8_congr hpoly hinit s
  rw [reply_eq_cons, hcrc, hcrc, crc8_default_replyHeader, crc8_default_replyData]

end Sys2Proof.Machine
end

section
/-! What a command word comes to: the events of an assembly line (30_encoding.md R79), and the step of a port's agent. -/

namespace Sys2Proof.Machine

/-- Every operation's line begins with the request of its word and a step of its agent. -/
theorem take_two_events_issue (p : Port) (i : Instr) :
    (AsmLine.issue p i).events.take 2 = [.request p (encode i), .serve p] := by
  cases i <;> rfl

/-- A line of an operation that is one atomic transition is those two events (20_memory.md R50). -/
theorem events_issue_of_ne_parse (p : Port) {i : Instr} (hi : i ≠ .parse) :
    (AsmLine.issue p i).events = [.request p (encode i), .serve p] := by
  cases i with
  | parse => exact absurd rfl hi
  | _ => rfl

/-- Settles O8, line by line. -/
theorem assemblyLinesAreTheirWords : Obligations.AssemblyLinesAreTheirWords :=
  ⟨events_issue_of_ne_parse .pp nofun, events_issue_of_ne_parse .cp nofun, events_issue_of_ne_parse .cp nofun,
    events_issue_of_ne_parse .cp nofun, events_issue_of_ne_parse .cp nofun, events_issue_of_ne_parse .cp nofun,
    take_two_events_issue .cp .parse, rfl⟩

/-- The agent of a port serves its request, on `CP` when no PARSE is in progress (43_framer.md R140). -/
theorem State.serve_eq_serveRequest {s : State} {p : Port} (h : p = .cp → s.fsm = .idle) : s.serve p = s.serveRequest p := by
  cases p with
  | pp => rfl
  | cp => exact State.serve_cp_idle (h rfl)

@[simp] theorem State.withSched_request (s : State) (es : List Event) (p : Port) : (s.withSched es).request p = s.request p := by
  cases p <;> rfl

/-- Settles O9: the step serves the port, and serving runs the decoded request. -/
theorem stepRunsTheDecodedRequest : Obligations.StepRunsTheDecodedRequest := by
  intro s p w i rest hf hs hidle hr hd
  calc step s = (s.withSched rest).serve p := step_of_cons hf hs
    _ = (s.withSched rest).serveRequest p := State.serve_eq_serveRequest hidle
    _ = exec i (s.withSched rest) := State.serveRequest_ok (by rwa [State.withSched_request]) hd

end Sys2Proof.Machine
end

section
/-! CRC8 (40_crc8.md R90 to R96): byte by byte, and no byte's change goes unseen. -/

namespace Sys2Proof.Machine

/-! ## The CRC byte by byte -/

@[simp] theorem crc8_nil (p : Params) : crc8 p [] = p.crcInit := rfl

/-- The CRC of a sequence is the steps of its second part from the CRC of the first. -/
theorem crc8_append (p : Params) (s t : List Byte) : crc8 p (s ++ t) = t.foldl (crc8Step p.crcPoly) (crc8 p s) :=
  List.foldl_append

theorem crc8Step_eq_zero_xor (poly c b : Byte) : crc8Step poly c b = crc8Step poly 0 (c ^^^ b) := by
  simp [crc8Step]

theorem crc8_default_checkValue :
    crc8 .default [0x31, 0x32, 0x33, 0x34, 0x35, 0x36, 0x37, 0x38, 0x39] = 0xF4 := by decide +kernel

/-- Settles O31: the byte-serial form is the fold's last step, and the check value is the default block's. -/
theorem crcIsByteSerialWithItsCheckValue : Obligations.CrcIsByteSerialWithItsCheckValue := fun p s b c =>
  ⟨crc8_nil p, crc8_append p s [b], crc8Step_eq_zero_xor p.crcPoly c b,
    fun hpoly hinit => (crc8_congr hpoly hinit _).trans crc8_default_checkValue⟩

/-! ## Changing one byte

A polynomial with its lowest bit set makes every shift a bijection, because the bit shifted out comes back as the lowest bit.
So a step is injective in each of its two inputs, and a difference at one byte lasts to the end (R94). -/

/-- The lowest bit after a shift is the bit shifted out. -/
theorem crc8Shift_getLsbD_zero {poly : Byte} (hodd : poly.getLsbD 0 = true) (x : Byte) :
    (crc8Shift poly x).getLsbD 0 = x.msb := by
  cases hx : x.msb <;> simp [crc8Shift, hx, hodd]

/-- A byte is its highest bit and the other seven shifted up. -/
theorem byte_eq_of_msb_of_shiftLeft_one {x y : Byte} (hmsb : x.msb = y.msb) (hshift : x <<< 1 = y <<< 1) : x = y := by
  refine BitVec.eq_of_getElem_eq fun i hi => ?_
  obtain rfl | hlt : i = 7 ∨ i + 1 < 8 := by omega
  · simpa [BitVec.msb_eq_getLsbD_last] using hmsb
  · simpa [hlt] using congrArg (·.getLsbD (i + 1)) hshift

theorem crc8Shift_injective {poly : Byte} (hodd : poly.getLsbD 0 = true) : Function.Injective (crc8Shift poly) := by
  intro x y h
  have hmsb : x.msb = y.msb := by rw [← crc8Shift_getLsbD_zero hodd, h, crc8Shift_getLsbD_zero hodd]
  refine byte_eq_of_msb_of_shiftLeft_one hmsb ?_
  cases hx : y.msb <;> simpa [crc8Shift, hmsb, hx] using h

theorem crc8Shifts_injective {poly : Byte} (hodd : poly.getLsbD 0 = true) (n : Nat) :
    Function.Injective (crc8Shifts poly n) := by
  induction n with
  | zero => exact Function.injective_id
  | succ n ih => exact ih.comp (crc8Shift_injective hodd)

/-- Two steps from one CRC agree only on the same byte. -/
theorem crc8Step_injective_right {poly : Byte} (hodd : poly.getLsbD 0 = true) (c : Byte) :
    Function.Injective (crc8Step poly c) := fun _ _ h =>
  (BitVec.xor_right_inj c).1 (crc8Shifts_injective hodd 8 h)

/-- Two steps on one byte agree only from the same CRC. -/
theorem crc8Step_injective_left {poly : Byte} (hodd : poly.getLsbD 0 = true) (b : Byte) :
    Function.Injective (crc8Step poly · b) := fun _ _ h =>
  (BitVec.xor_left_inj b).1 (crc8Shifts_injective hodd 8 h)

/-- Over a common suffix, different CRCs stay different. -/
theorem foldl_crc8Step_injective {poly : Byte} (hodd : poly.getLsbD 0 = true) (v : List Byte) :
    Function.Injective (v.foldl (crc8Step poly)) := by
  induction v with
  | nil => exact Function.injective_id
  | cons b v ih => exact ih.comp (crc8Step_injective_left hodd b)

/-- R94 for every odd polynomial: sequences that differ at most in one byte have equal CRCs only if that byte is equal. -/
theorem crc8_append_cons_inj {p : Params} (hodd : p.crcPoly.getLsbD 0 = true) {u v : List Byte} {a b : Byte} :
    crc8 p (u ++ a :: v) = crc8 p (u ++ b :: v) ↔ a = b := by
  rw [crc8_append, crc8_append, List.foldl_cons, List.foldl_cons, (foldl_crc8Step_injective hodd v).eq_iff,
    (crc8Step_injective_right hodd _).eq_iff]

/-- The CRC is not the identity (R94). -/
theorem crc8_default_one : crc8 .default [0x01] = 0x07 := by decide +kernel

/-- Settles O32: the polynomial `0x07` is odd. -/
theorem crcDetectsEverySingleByteChange : Obligations.CrcDetectsEverySingleByteChange := by
  refine ⟨fun p u v a b hpoly hab => ?_, crc8_default_one⟩
  have hodd : p.crcPoly.getLsbD 0 = true := by rw [hpoly]; rfl
  exact mt (crc8_append_cons_inj hodd).1 hab

end Sys2Proof.Machine
end

section
/-! The answers of the queue's operations: each row of 41_queue.md, case by case, with its whole frame. -/

namespace Sys2Proof.Machine

variable {s : State}

/-! ## One answer per case -/

theorem exec_write_of_full (h : s.full = true) (b : Byte) : exec (.write b) s = .next (s.respond .pp (.ok false)) :=
  ((execWrite_cases b s).resolve_right (by simp [h])).2

theorem exec_write_of_not_full (h : s.full = false) (b : Byte) :
    exec (.write b) s = .next ((s.append b).respond .pp (.ok true)) :=
  ((execWrite_cases b s).resolve_left (by simp [h])).2

theorem State.queueRead_of_empty (h : s.empty = true) : s.queueRead = .ok (none, s) := by
  simp [State.queueRead, h]

theorem State.queueRead_of_cell {b : Byte} (h : s.empty = false) (hm : Memory.read s.cell (s.elemCell 0) = some b) :
    s.queueRead = .ok (some b, s.dropFront) := by
  simp [State.queueRead, State.memRead, h, hm]

/-- READ answers what `queueRead` reads, and keeps its change (R103, R104). -/
theorem exec_read_of_queueRead {x : Option Byte} {t : State} (h : s.queueRead = .ok (x, t)) :
    exec .read s = .next (t.respond .cp (byteResponse x)) := by
  simp only [exec, execRead, h]

/-- PEEK answers what `queueRead` reads, without its change (R106, R107). -/
theorem exec_peek_of_queueRead {x : Option Byte} {t : State} (h : s.queueRead = .ok (x, t)) :
    exec .peek s = .next (s.respond .cp (byteResponse x)) := by
  simp only [exec, execPeek, h]

/-! ## WRITE, READ and PEEK on the cells -/

/-- Settles O14, by whether the queue is full; the cell written is the one `WR` names. -/
theorem writeAppendsUnlessFull : Obligations.WriteAppendsUnlessFull := by
  intro s b hw
  constructor
  · intro hroom
    have hcells (i : Nat) : Memory.read (s.append b).cell i = if i = s.wr then some b else Memory.read s.cell i := by
      rw [State.append_cell, Memory.read_write, State.tailCell, Nat.mod_eq_of_lt hw]
    exact ⟨_, exec_write_of_not_full (beq_false_of_ne hroom) b, hcells⟩
  · intro hfull
    exact exec_write_of_full (beq_iff_eq.2 hfull) b

/-- Settles O15, by whether the queue is empty; the cell cleared is the one `RD` names. -/
theorem readTakesTheOldestOrNothing : Obligations.ReadTakesTheOldestOrNothing := by
  intro s hwf hr
  have hfront : s.elemCell 0 = s.rd := Nat.mod_eq_of_lt hr
  constructor
  · intro b hne hm
    have hread := State.queueRead_of_cell (beq_false_of_ne hne) (by rwa [hfront])
    have hcells (i : Nat) : Memory.read s.dropFront.cell i = if i = s.rd then none else Memory.read s.cell i := by
      rw [State.dropFront_cell, Memory.read_clear hwf, hfront]
    exact ⟨_, exec_read_of_queueRead hread, hcells⟩
  · intro he
    exact exec_read_of_queueRead (State.queueRead_of_empty (beq_iff_eq.2 he))

/-- Settles O16, by whether the queue is empty. -/
theorem peekReturnsTheOldestOrNothing : Obligations.PeekReturnsTheOldestOrNothing := by
  intro s hr
  have hfront : s.elemCell 0 = s.rd := Nat.mod_eq_of_lt hr
  constructor
  · intro b hne hm
    exact exec_peek_of_queueRead (State.queueRead_of_cell (beq_false_of_ne hne) (by rwa [hfront]))
  · intro he
    exact exec_peek_of_queueRead (State.queueRead_of_empty (beq_iff_eq.2 he))

/-! ## SNAPSHOT, ITERATE and LEN on the contents -/

/-- Settles O17: a snapshot of the contents is their first bytes. -/
theorem snapshotCopiesTheOldest : Obligations.SnapshotCopiesTheOldest := by
  intro s q m hq
  constructor
  · have hsnap : s.snapshot (countOperand m) = .ok (q.take m.toNat) := State.snapshot_of_holds hq _
    simp only [exec, execSnapshot, hsnap, State.respond]
  · rw [List.length_take, hq.length]

/-- Settles O18: the elements read are all `LEN` of them. -/
theorem iterateListsEveryByte : Obligations.IterateListsEveryByte := by
  intro s q hq
  have hread : s.readElems 0 s.len = .ok q := by
    rw [State.readElems_zero_of_holds hq le_rfl, hq.length, List.take_length]
  exact ⟨by simp only [exec, execIterate, hread, State.respond], hq.length.symm⟩

/-- Settles O19: LEN answers the status value, whose arithmetic is that of the cursors. -/
theorem lenCountsTheBytes : Obligations.LenCountsTheBytes := by
  intro s hr hw
  have hc : s.Cursors := ⟨hr, hw⟩
  exact ⟨s.len, rfl, State.len_int hc, Nat.le_sub_one_of_lt (State.len_lt hc)⟩

/-- Settles O26: the contents are `LEN` bytes, and both claims are about `LEN`. -/
theorem capacityIsOneCellLess : Obligations.CapacityIsOneCellLess := by
  intro s q hinv hq
  rw [← hq.length]
  exact ⟨Nat.le_sub_one_of_lt (State.len_lt hinv.cursors), State.full_iff_len hinv.cursors⟩

end Sys2Proof.Machine
end

section
/-! The queue along a run: no step faults under the invariant (41_queue.md R118), and a written byte is read back (R117). -/

namespace Sys2Proof.Machine

variable {s : State}

/-- Without a recorded fault every step is answered by a next state. -/
theorem step_next (hf : s.fault = none) : ∃ t, step s = .next t := by
  rcases hs : s.sched with _ | ⟨e, rest⟩
  · exact ⟨s, step_of_nil hf hs⟩
  · rw [step_of_cons hf hs]
    exact (s.withSched rest).perform_next e

/-- Settles O54: the next state has the invariant, and so no fault. -/
theorem noStepFaultsUnderTheInvariant : Obligations.NoStepFaultsUnderTheInvariant := by
  intro s hinv
  obtain ⟨t, ht⟩ := step_next hinv.no_fault
  exact ⟨t, ht, (everyStepKeepsTheInvariant s t hinv ht).no_fault⟩

/-! ## A request and its service -/

theorem State.accept_request (s : State) (p : Port) (w : Word) : (s.accept p w).request p = some w := by
  cases p <;> rfl

theorem State.withSched_busy (s : State) (es : List Event) (p : Port) : (s.withSched es).busy p = s.busy p := by
  cases p <;> rfl

/-- The schedule is no part of what a port accepts. -/
theorem State.accept_withSched (s : State) (es es' : List Event) (p : Port) (w : Word) :
    ((s.withSched es).accept p w).withSched es' = (s.withSched es').accept p w := by
  cases p <;> rfl

/-- The agent of a port serves the operation just accepted there. -/
theorem State.perform_serve_accept {i : Instr} (hm : i.port = .cp → s.fsm = .idle) :
    (s.accept i.port (encode i)).perform (.serve i.port) = exec i (s.accept i.port (encode i)) :=
  calc (s.accept i.port (encode i)).serve i.port
    _ = (s.accept i.port (encode i)).serveRequest i.port :=
        State.serve_eq_serveRequest fun hp => (State.accept_fsm ..).trans (hm hp)
    _ = exec i (s.accept i.port (encode i)) := State.serveRequest_ok (State.accept_request ..) (decode_encode i)

/-- An operation placed on its ready port and served right after takes effect there, and the invariant holds after it. -/
theorem Inv.runEvents_issue {t : State} {i : Instr} {es : List Event} (h : Inv s) (hb : s.busy i.port = false)
    (ht : exec i ((s.withSched es).accept i.port (encode i)) = .next t) :
    Inv t ∧ runEvents s (.request i.port (encode i) :: .serve i.port :: es) = runEvents t es := by
  have hplace : (s.withSched (.serve i.port :: es)).perform (.request i.port (encode i)) =
      .next ((s.withSched (.serve i.port :: es)).accept i.port (encode i)) := by
    rw [State.perform, State.placeRequest_eq_ite, State.withSched_busy, hb, if_neg Bool.false_ne_true]
  have hinv := (h.withSched _).perform hplace
  have hidle (hp : i.port = .cp) : (s.withSched es).fsm = .idle := h.fsm_idle (by rwa [hp] at hb)
  have hserve : (((s.withSched (.serve i.port :: es)).accept i.port (encode i)).withSched es).perform (.serve i.port) = .next t := by
    rw [State.accept_withSched, State.perform_serve_accept hidle, ht]
  exact ⟨(hinv.withSched es).perform hserve, (runEvents_cons h.no_fault hplace).trans (runEvents_cons hinv.no_fault hserve)⟩

/-- A WRITE issued on a queue with room (R100). -/
theorem Inv.runEvents_write {q : List Byte} (h : Inv s) (hb : s.pbusy = false) (hq : s.Holds q) (hf : s.full = false)
    (b : Byte) (es : List Event) :
    ∃ t, runEvents s (.request .pp (encode (.write b)) :: .serve .pp :: es) = runEvents t es ∧
      Inv t ∧ t.cbusy = s.cbusy ∧ t.ppRsp = some (.ok true) ∧ t.Holds (q ++ [b]) := by
  have hexec := exec_write_of_not_full (s := (s.withSched es).accept .pp (encode (.write b))) hf b
  obtain ⟨hinv, hrun⟩ := h.runEvents_issue (i := .write b) hb hexec
  exact ⟨_, hrun, hinv, rfl, rfl, State.append_holds h.cursors hf hq b⟩

/-- A READ issued on a queue that is not empty (R103). -/
theorem Inv.runEvents_read {q : List Byte} {b : Byte} (h : Inv s) (hb : s.cbusy = false) (hq : s.Holds (b :: q))
    (es : List Event) :
    ∃ t, runEvents s (.request .cp (encode .read) :: .serve .cp :: es) = runEvents t es ∧
      Inv t ∧ t.cbusy = false ∧ t.ppRsp = s.ppRsp ∧ t.cpRsp = some (.byte b) ∧ t.Holds q := by
  obtain ⟨hread, hrest⟩ := State.queueRead_of_holds (s := (s.withSched es).accept .cp (encode .read)) ⟨h.rd_lt, h.wr_lt⟩ hq
  obtain ⟨hinv, hrun⟩ := h.runEvents_issue (i := .read) hb (exec_read_of_queueRead hread)
  exact ⟨_, hrun, hinv, rfl, rfl, rfl, hrest⟩

/-- As many READs as the queue holds bytes empty it, and the last of them returns the newest byte (R117). -/
theorem Inv.runEvents_reads {q : List Byte} {b : Byte} (h : Inv s) (hb : s.cbusy = false) (hq : s.Holds (q ++ [b])) :
    ∃ t, runEvents s (List.replicate (q.length + 1) [Event.request .cp (encode .read), .serve .cp]).flatten = .next t ∧
      t.ppRsp = s.ppRsp ∧ t.cpRsp = some (.byte b) ∧ t.Holds [] := by
  induction q generalizing s with
  | nil =>
    obtain ⟨t, hrun, -, -, hpp, hcp, hnil⟩ := h.runEvents_read hb hq []
    exact ⟨t.withSched [], hrun.trans (runEvents_nil t), hpp, hcp, hnil⟩
  | cons a q ih =>
    obtain ⟨t, hrun, hinv, hready, hpp, -, hrest⟩ := h.runEvents_read hb hq _
    obtain ⟨u, hreads, hpp', hcp, hnil⟩ := ih hinv hready hrest
    exact ⟨u, hrun.trans hreads, hpp'.trans hpp, hcp, hnil⟩

/-- Settles O25: the WRITE appends its byte, and the READs take everything before it and then the byte. -/
theorem writtenByteIsReadBack : Obligations.WrittenByteIsReadBack := by
  intro s q b hinv hpp hcp hq hf
  obtain ⟨t, hwrite, hinv', hready, hok, hq'⟩ := hinv.runEvents_write hpp hq hf b _
  obtain ⟨u, hreads, hok', hbyte, hnil⟩ := hinv'.runEvents_reads (hready.trans hcp) hq'
  exact ⟨u, hwrite.trans hreads, hok'.trans hok, hbyte, hnil⟩

end Sys2Proof.Machine
end

section
/-! The receive path (42_rx_adapter.md): what each event does to `RXH`, a drain in arrival order, and the producer's duty. -/

namespace Sys2Proof.Machine

variable {s t : State}

/-! ## RXBYTE -/

/-- Settles O27: the step is RXBYTE, whose two branches are the statement's (R130). -/
theorem receivedByteIsHeldOrLost : Obligations.ReceivedByteIsHeldOrLost := by
  intro s b rest hf hs
  exact step_of_cons hf hs

/-! ## RXSERVICE -/

theorem State.rxServiceEnabled_iff : s.rxServiceEnabled = true ↔ s.rxh ≠ [] ∧ s.pbusy = false := by
  simp [State.rxServiceEnabled, State.rxPend, List.length_pos_iff]

/-- While `PP` is busy the step is skipped. -/
theorem State.perform_rxService_of_busy (hp : s.pbusy = true) : s.perform .rxService = .next s := by
  rw [State.perform_rxService_eq_ite, if_neg (by simp [State.rxServiceEnabled_iff, hp])]

/-- With `PP` ready RXSERVICE is the WRITE of the oldest received byte, which leaves `RXH` (R131). -/
theorem State.perform_rxService_of_ready {b : Byte} {r : List Byte} (hp : s.pbusy = false) (hr : s.rxh = b :: r) :
    s.perform .rxService = exec (.write b) { s with rxh := r } := by
  rw [State.perform_rxService_eq_ite, if_pos (State.rxServiceEnabled_iff.2 ⟨by simp [hr], hp⟩)]
  simp only [State.rxService, hr, exec]

/-- A response on a port that is ready leaves its busy bit as it was. -/
theorem State.respond_pp_of_ready (hp : s.pbusy = false) (r : Response) :
    s.respond .pp r = { s with ppReq := none, ppRsp := some r } := by
  simp only [State.respond, hp]

/-- On a full queue the byte is dropped (R132). -/
theorem State.perform_rxService_of_full {b : Byte} {r : List Byte} (hp : s.pbusy = false) (hr : s.rxh = b :: r)
    (hf : s.full = true) : s.perform .rxService = .next { s with rxh := r, ppReq := none, ppRsp := some (.ok false) } := by
  rw [State.perform_rxService_of_ready hp hr, exec_write_of_full (s := { s with rxh := r }) hf,
    State.respond_pp_of_ready (s := { s with rxh := r }) hp]

/-- On a queue with room the byte is appended (R131). -/
theorem State.perform_rxService_of_not_full {b : Byte} {r : List Byte} (hp : s.pbusy = false) (hr : s.rxh = b :: r)
    (hf : s.full = false) :
    s.perform .rxService = .next { s.append b with rxh := r, ppReq := none, ppRsp := some (.ok true) } := by
  rw [State.perform_rxService_of_ready hp hr, exec_write_of_not_full (s := { s with rxh := r }) hf,
    State.respond_pp_of_ready (s := State.append { s with rxh := r } b) hp]
  rfl

/-- A WRITE that succeeds changes the cell that `WR` names and no other (41_queue.md R100). -/
theorem State.read_append_cell (hw : s.wr < s.par.queueN) (b : Byte) (i : Nat) :
    Memory.read (s.append b).cell i = if i = s.wr then some b else Memory.read s.cell i := by
  rw [State.append_cell, Memory.read_write, State.tailCell, Nat.mod_eq_of_lt hw]

/-- Settles O28, by whether `PP` is busy and whether the queue is full. -/
theorem rxServiceMovesOrDropsOneByte : Obligations.RxServiceMovesOrDropsOneByte := by
  intro s b r q rest hf hs hr hrd hwr hq
  rw [step_of_cons hf hs]
  refine ⟨State.perform_rxService_of_busy (s := s.withSched rest),
    fun hp hfull => State.perform_rxService_of_full (s := s.withSched rest) hp hr hfull, fun hp hroom => ?_⟩
  exact ⟨_, State.perform_rxService_of_not_full (s := s.withSched rest) hp hr hroom,
    State.append_holds (s := s) ⟨hrd, hwr⟩ hroom hq b, State.read_append_cell (s := s) hwr b, rfl⟩

/-! ## A drain -/

/-- One RXSERVICE of a drain: with `PP` ready and room in the queue, the oldest received byte goes to the end of the contents. -/
theorem Inv.perform_rxService {b : Byte} {q r : List Byte} (h : Inv s) (hp : s.pbusy = false) (hq : s.Holds q)
    (hr : s.rxh = b :: r) (hroom : q.length < s.par.queueN - 1) :
    ∃ t, s.perform .rxService = .next t ∧ Inv t ∧ t.par = s.par ∧ t.pbusy = false ∧ t.rxh = r ∧ t.Holds (q ++ [b]) := by
  have hf : s.full = false := Bool.eq_false_iff.2 fun hfull => by
    rw [State.full_iff_len h.cursors, hq.length] at hfull
    omega
  have hstep := State.perform_rxService_of_not_full hp hr hf
  exact ⟨_, hstep, h.perform hstep, rfl, hp, rfl, State.append_holds h.cursors hf hq b⟩

/-- Settles O29, by induction on the bytes waiting in `RXH`. -/
theorem drainKeepsArrivalOrder : Obligations.DrainKeepsArrivalOrder := by
  intro s q hinv hp hq hroom
  induction hr : s.rxh generalizing s q with
  | nil => exact ⟨s.withSched [], runEvents_nil s, hr, by simp [State.rxPend, hr], by rwa [List.append_nil]⟩
  | cons b r ih =>
    rw [hr, List.length_cons] at hroom
    obtain ⟨t, hstep, hinv', hpar, hp', hr', hq'⟩ :=
      (hinv.withSched (List.replicate r.length .rxService)).perform_rxService hp hq hr (by rw [State.withSched_par]; omega)
    have hroom' : (q ++ [b]).length + t.rxh.length ≤ t.par.queueN - 1 := by
      rw [List.length_append, List.length_singleton, hr', hpar, State.withSched_par]
      omega
    obtain ⟨u, hrun, hnil, hpend, hu⟩ := ih t (q ++ [b]) hinv' hp' hq' hroom' hr'
    exact ⟨u, (runEvents_cons hinv.no_fault hstep).trans hrun, hnil, hpend, by rwa [List.append_assoc] at hu⟩

/-! ## `RXH` only loses bytes when none is delivered -/

theorem State.serveRequest_rxh {p : Port} (h : s.serveRequest p = .next t) : t.rxh = s.rxh := by
  cases p with
  | pp => rcases s.serveRequest_pp_cases with h' | ⟨r, h'⟩ | ⟨b, -, h'⟩ <;> cases h'.symm.trans h <;> rfl
  | cp =>
    rcases s.serveRequest_cp_cases with h' | h' | ⟨i, hi, -, h'⟩
    · cases h'.symm.trans h; rfl
    · cases h'.symm.trans h; rfl
    · rw [h'] at h
      rcases exec_cp_cases hi s with ⟨j, -, -, h'⟩ | ⟨r, h'⟩ | ⟨r, -, h'⟩ | ⟨-, h'⟩ <;> cases h'.symm.trans h <;> rfl

theorem State.parseRead_rxh {after : State → State} (ha : ∀ u : State, (after u).rxh = u.rxh) :
    (s.parseRead after).rxh = s.rxh := by
  rcases s.parseRead_cases after with ⟨-, h⟩ | ⟨-, -, h⟩ | ⟨b, -, -, h⟩ <;> rw [h]
  · exact ha s
  · rfl
  · exact ha s.dropFront

theorem State.parseReads_rxh {exit : State → State} (ha : ∀ u : State, (exit u).rxh = u.rxh) :
    (s.parseReads exit).rxh = s.rxh := by
  unfold State.parseReads
  split
  · exact ha s
  · exact State.parseRead_rxh fun _ => rfl

/-- The engine has no part in the receive path. -/
theorem State.parseStep_rxh (s : State) : s.parseStep.rxh = s.rxh := by
  cases hm : s.fsm with
  | dropAll | dropPrefix | commit =>
    simp only [State.parseStep, hm]
    exact State.parseReads_rxh fun _ => rfl
  | dropOne =>
    simp only [State.parseStep, hm]
    exact State.parseRead_rxh fun _ => rfl
  | idle | done => simp only [State.parseStep, hm, State.stepDone, State.respond_rxh]
  | scan | hdr | data | event | tx =>
    simp only [State.parseStep, hm, State.stepScan, State.stepHdr, State.stepData, State.stepEvent, State.stepTx]
    split <;> rfl
  | snap1 | snap2 | len =>
    simp only [State.parseStep, hm, State.stepSnap1, State.stepSnap2, State.stepLen]
    split
    · rfl
    · split <;> rfl

/-- A port's agent has no part in the receive path. -/
theorem State.serve_rxh {p : Port} (h : s.serve p = .next t) : t.rxh = s.rxh := by
  cases p with
  | pp => exact State.serveRequest_rxh h
  | cp =>
    by_cases hm : s.fsm = .idle
    · exact State.serveRequest_rxh (State.serve_cp_idle hm ▸ h)
    · cases (State.serve_cp_parsing hm).symm.trans h
      exact s.parseStep_rxh

/-- An enabled RXSERVICE takes the oldest byte, whatever becomes of it (R131, R132). -/
theorem State.perform_rxService_rxh (he : s.rxServiceEnabled = true) (h : s.perform .rxService = .next t) :
    t.rxh = s.rxh.tail := by
  obtain ⟨hne, hp⟩ := State.rxServiceEnabled_iff.1 he
  obtain ⟨b, r, hr⟩ := List.exists_cons_of_ne_nil hne
  rw [hr, List.tail_cons]
  cases hf : s.full with
  | true => cases (State.perform_rxService_of_full hp hr hf).symm.trans h; rfl
  | false => cases (State.perform_rxService_of_not_full hp hr hf).symm.trans h; rfl

/-- Every event that delivers no byte leaves `RXH` or takes from its head. -/
theorem State.perform_rxh_suffix {e : Event} (he : ∀ b, e ≠ .rx b) (h : s.perform e = .next t) : t.rxh <:+ s.rxh := by
  cases e with
  | rx b => exact absurd rfl (he b)
  | rxService =>
    by_cases hen : s.rxServiceEnabled = true
    · rw [State.perform_rxService_rxh hen h]
      exact List.tail_suffix _
    · rw [State.perform_rxService_eq_ite, if_neg hen] at h
      cases h
      exact List.suffix_rfl
  | request p w =>
    cases h
    rw [State.placeRequest_eq_ite]
    split
    · exact List.suffix_rfl
    · rw [State.accept_rxh]
  | serve p =>
    rw [State.serve_rxh h]
  | txSink => cases h; exact List.suffix_rfl
  | reset => cases h; exact List.nil_suffix

/-! ## Endless runs -/

section Run

variable {ev : Nat → Event} {tr : Nat → State}

theorem IsRun.inv (hrun : IsRun ev tr) (h : Inv (tr 0)) (n : Nat) : Inv (tr n) := by
  induction n with
  | zero => exact h
  | succ n ih => exact (everyStepKeepsTheInvariant _ _ (ih.withSched _) (hrun n)).withSched (tr (n + 1)).sched

/-- Each step of a run performs its event. -/
theorem IsRun.perform (hrun : IsRun ev tr) {n : Nat} (hf : (tr n).fault = none) :
    ((tr n).withSched []).perform (ev n) = .next ((tr (n + 1)).withSched []) :=
  (step_of_cons (s := (tr n).withSched [ev n]) hf rfl).symm.trans (hrun n)

end Run

/-- A measure that never grows, and that goes down again unless it reaches 0, reaches 0. -/
theorem exists_eq_zero_of_decreasing {f : Nat → Nat} {n : Nat} (hle : ∀ m, n ≤ m → f (m + 1) ≤ f m)
    (hlt : ∀ k, n ≤ k → (∀ m, k ≤ m → f m ≠ 0) → ∃ m, k ≤ m ∧ f (m + 1) < f m) : ∃ m, n ≤ m ∧ f m = 0 := by
  induction hv : f n using Nat.strong_induction_on generalizing n with
  | h v ih =>
    by_contra! hne
    obtain ⟨m, hm, hdown⟩ := hlt n le_rfl hne
    have hmono : f m ≤ f n := Nat.le_induction le_rfl (fun k hk hfk => (hle k hk).trans hfk) m hm
    obtain ⟨k, hk, hzero⟩ := ih (f (m + 1)) (by omega) (n := m + 1) (fun k hk => hle k (by omega))
      (fun k hk => hlt k (by omega)) rfl
    exact hne k (by omega) hzero

/-- Settles O60: once no byte is delivered the length of `RXH` never grows, and the duty makes it go down until it is 0. -/
theorem fairProducerDrainsRxh : Obligations.FairProducerDrainsRxh := by
  intro ev tr n hrun hfair hinv hquiet
  have hperform (m : Nat) := hrun.perform (hrun.inv hinv m).no_fault
  have hle (m : Nat) (hm : n ≤ m) : (tr (m + 1)).rxh.length ≤ (tr m).rxh.length :=
    (State.perform_rxh_suffix (fun b => hquiet m b hm) (hperform m)).length_le
  have hlt (k : Nat) (_ : n ≤ k) (hwaits : ∀ m, k ≤ m → (tr m).rxh.length ≠ 0) :
      ∃ m, k ≤ m ∧ (tr (m + 1)).rxh.length < (tr m).rxh.length := by
    obtain ⟨m, hkm, hev, hen⟩ := hfair k fun m hm => decide_eq_true (Nat.pos_of_ne_zero (hwaits m hm))
    have hstep := hperform m
    rw [hev] at hstep
    have htail := State.perform_rxService_rxh (s := (tr m).withSched []) hen hstep
    rw [State.withSched_rxh, State.withSched_rxh] at htail
    have hpos := Nat.pos_of_ne_zero (hwaits m hkm)
    exact ⟨m, hkm, by rw [htail, List.length_tail]; omega⟩
  obtain ⟨m, hm, hzero⟩ := exists_eq_zero_of_decreasing hle hlt
  exact ⟨m, hm, List.eq_nil_of_length_eq_zero hzero⟩

end Sys2Proof.Machine
end

section
/-! PARSE, one transition at a time (43_framer.md R140 to R153): what a step of the consumer does in each state of `FSM`. -/

namespace Sys2Proof.Machine

variable {s : State} {rest : List Event}

/-! ## The transition of each state -/

theorem State.parseStep_of_idle (h : s.fsm = .idle) : s.parseStep = s := by simp only [State.parseStep, h]
theorem State.parseStep_of_snap1 (h : s.fsm = .snap1) : s.parseStep = s.stepSnap1 := by simp only [State.parseStep, h]
theorem State.parseStep_of_scan (h : s.fsm = .scan) : s.parseStep = s.stepScan := by simp only [State.parseStep, h]
theorem State.parseStep_of_dropAll (h : s.fsm = .dropAll) : s.parseStep = s.stepDropAll := by simp only [State.parseStep, h]
theorem State.parseStep_of_dropPrefix (h : s.fsm = .dropPrefix) : s.parseStep = s.stepDropPrefix := by
  simp only [State.parseStep, h]
theorem State.parseStep_of_snap2 (h : s.fsm = .snap2) : s.parseStep = s.stepSnap2 := by simp only [State.parseStep, h]
theorem State.parseStep_of_hdr (h : s.fsm = .hdr) : s.parseStep = s.stepHdr := by simp only [State.parseStep, h]
theorem State.parseStep_of_dropOne (h : s.fsm = .dropOne) : s.parseStep = s.stepDropOne := by simp only [State.parseStep, h]
theorem State.parseStep_of_len (h : s.fsm = .len) : s.parseStep = s.stepLen := by simp only [State.parseStep, h]
theorem State.parseStep_of_data (h : s.fsm = .data) : s.parseStep = s.stepData := by simp only [State.parseStep, h]
theorem State.parseStep_of_commit (h : s.fsm = .commit) : s.parseStep = s.stepCommit := by simp only [State.parseStep, h]
theorem State.parseStep_of_event (h : s.fsm = .event) : s.parseStep = s.stepEvent := by simp only [State.parseStep, h]
theorem State.parseStep_of_tx (h : s.fsm = .tx) : s.parseStep = s.stepTx := by simp only [State.parseStep, h]
theorem State.parseStep_of_done (h : s.fsm = .done) : s.parseStep = s.stepDone := by simp only [State.parseStep, h]

/-- A step of the consumer in a state but `IDLE` is that state's transition. -/
theorem step_of_fsm {m : Fsm} (hf : s.fault = none) (hs : s.sched = .serve .cp :: rest) (hm : s.fsm = m)
    (hi : m ≠ .idle := by decide) : step s = .next (s.withSched rest).parseStep :=
  step_of_parsing hf hs (hm ▸ hi)

/-! ## The request and the snapshots -/

/-- Settles O33: the request itself is one assignment to `FSM` and `CBUSY`. -/
theorem parseRequestStartsTheEngine : Obligations.ParseRequestStartsTheEngine := fun _ => rfl

/-- SNAP1 on a queue that holds `q` (R141). -/
theorem State.stepSnap1_of_holds {q : List Byte} (hq : s.Holds q) :
    s.stepSnap1 = { s.loadSnap (q.take snapMax) with
      fsm := if q = [] then .done else .scan
      work := { s.work with c1 := min snapMax q.length, out := if q = [] then .bufferEmpty else s.work.out } } := by
  simp only [State.stepSnap1, State.snapshot_of_holds hq]
  by_cases hnil : q = []
  · subst hnil; rfl
  · have hpos : 0 < q.length := List.length_pos_iff.2 hnil
    have hne : ¬ (q.take snapMax).length = 0 := by rw [List.length_take, snapMax]; omega
    rw [if_neg hne, if_neg hnil, if_neg hnil, List.length_take]
    rfl

/-- Settles O34: the snapshot of the contents is loaded, and its length decides the next state. -/
theorem firstSnapshotCopiesUpTo128Bytes : Obligations.FirstSnapshotCopiesUpTo128Bytes := by
  intro s q rest hf hs hm hq
  refine ⟨_, step_of_fsm hf hs hm, ?_⟩
  rw [State.parseStep_of_snap1 (s := s.withSched rest) hm, State.stepSnap1_of_holds (s := s.withSched rest) hq]
  refine ⟨State.loadSnap_snap s _, List.length_take, ?_⟩
  simp only [State.loadSnap, State.withSched, List.length_take, snapMax]

/-- SNAP2 on a queue that holds `q` (R146). -/
theorem State.stepSnap2_of_holds {q : List Byte} (hq : s.Holds q) :
    s.stepSnap2 = { s.loadSnap (q.take snapMax) with
      fsm := if q.length < minFrame then .done else .hdr
      work := { s.work with
        c2 := min snapMax q.length, out := if q.length < minFrame then .notEnoughBytes else s.work.out } } := by
  have hlt : (q.take snapMax).length < minFrame ↔ q.length < minFrame := by
    rw [List.length_take, snapMax, minFrame]; omega
  simp only [State.stepSnap2, State.snapshot_of_holds hq, hlt]
  split <;> simp only [State.finishParse, State.loadSnap, List.length_take]

/-- Settles O37: the second snapshot is loaded, and whether it has seven bytes decides the next state. -/
theorem secondSnapshotNeedsSevenBytes : Obligations.SecondSnapshotNeedsSevenBytes := by
  intro s q rest hf hs hm hq
  refine ⟨_, step_of_fsm hf hs hm, ?_⟩
  rw [State.parseStep_of_snap2 (s := s.withSched rest) hm, State.stepSnap2_of_holds (s := s.withSched rest) hq]
  refine ⟨State.loadSnap_snap s _, List.length_take, List.length_take.symm, ?_, rfl⟩
  by_cases h7 : q.length < 7
  · simp [h7, minFrame]
  · simp [h7, minFrame]

/-! ## SCAN -/

theorem State.stepScan_of_no_sync (h : s.snap.findIdx? (· == syncByte) = none) :
    s.stepScan = { s with fsm := .dropAll, work := { s.work with k := none, remaining := s.work.c1 } } := by
  simp only [State.stepScan, h]

theorem State.stepScan_of_sync {k : Nat} (h : s.snap.findIdx? (· == syncByte) = some k) :
    s.stepScan = { s with fsm := .dropPrefix, work := { s.work with k := some k, remaining := k } } := by
  simp only [State.stepScan, h]

theorem findIdx?_sync_of_not_mem {l : List Byte} (h : syncByte ∉ l) : l.findIdx? (· == syncByte) = none :=
  List.findIdx?_eq_none_iff.2 fun _ hx => beq_false_of_ne fun he => h (he ▸ hx)

theorem findIdx?_sync_of_first {l : List Byte} {k : Nat} (hk : l[k]? = some syncByte) (hfirst : ∀ j < k, l[j]? ≠ some syncByte) :
    l.findIdx? (· == syncByte) = some k := by
  obtain ⟨hlt, hget⟩ := List.getElem?_eq_some_iff.1 hk
  refine List.findIdx?_eq_some_iff_getElem.2 ⟨hlt, beq_iff_eq.2 hget, fun j hj hsync => hfirst j hj ?_⟩
  rw [List.getElem?_eq_getElem (hj.trans hlt), beq_iff_eq.1 hsync]

/-- Settles O35, by whether the snapshot has a sync byte. -/
theorem scanTakesTheFirstSyncByte : Obligations.ScanTakesTheFirstSyncByte := by
  intro s rest hf hs hm
  rw [step_of_fsm hf hs hm, State.parseStep_of_scan (s := s.withSched rest) hm]
  constructor
  · intro hno
    exact congrArg _ (State.stepScan_of_no_sync (s := s.withSched rest) (findIdx?_sync_of_not_mem hno))
  · intro k hk hfirst
    exact congrArg _ (State.stepScan_of_sync (s := s.withSched rest) (findIdx?_sync_of_first hk hfirst))

/-! ## READs -/

theorem State.parseReads_of_zero (h : s.work.remaining = 0) (exit : State → State) : s.parseReads exit = exit s := by
  simp only [State.parseReads, h]

/-- A READ that finds a byte takes it, and what follows comes on the shorter queue. -/
theorem State.parseRead_of_queueRead {b : Byte} (h : s.queueRead = .ok (some b, s.dropFront)) (after : State → State) :
    s.parseRead after = after s.dropFront := by
  simp only [State.parseRead, h]

theorem State.parseReads_of_queueRead {b : Byte} {n : Nat} (hn : s.work.remaining = n + 1)
    (h : s.queueRead = .ok (some b, s.dropFront)) (exit : State → State) :
    s.parseReads exit = { s.dropFront with work := { s.work with remaining := n } } := by
  simp only [State.parseReads, hn, State.parseRead_of_queueRead h, State.dropFront_work]

/-- In the three states of a repeated READ, a READ that finds a byte takes it and leaves the state of `FSM` (R144, R145, R153). -/
theorem State.parseStep_of_reading {b : Byte} {n : Nat} (hm : s.fsm = .dropAll ∨ s.fsm = .dropPrefix ∨ s.fsm = .commit)
    (hn : s.work.remaining = n + 1) (h : s.queueRead = .ok (some b, s.dropFront)) :
    s.parseStep = { s.dropFront with work := { s.work with remaining := n } } := by
  rcases hm with hm | hm | hm
  · exact (State.parseStep_of_dropAll hm).trans (State.parseReads_of_queueRead hn h _)
  · exact (State.parseStep_of_dropPrefix hm).trans (State.parseReads_of_queueRead hn h _)
  · exact (State.parseStep_of_commit hm).trans (State.parseReads_of_queueRead hn h _)

/-- Settles O36, by how many READs are left. -/
theorem parseReadsOneByteAStep : Obligations.ParseReadsOneByteAStep := by
  intro s n b q rest hf hs hrd hwr
  refine ⟨fun hm hn hq => ?_, fun hm h0 => ?_, fun hm h0 => ?_, fun hm h0 => ?_⟩
  · have hi : s.fsm ≠ .idle := by rcases hm with hm | hm | hm <;> simp [hm]
    obtain ⟨hread, hrest⟩ := State.queueRead_of_holds (s := s.withSched rest) ⟨hrd, hwr⟩ hq
    rw [step_of_parsing hf hs hi, State.parseStep_of_reading (s := s.withSched rest) hm hn hread]
    exact ⟨_, rfl, hrest, rfl⟩
  · rw [step_of_fsm hf hs hm, State.parseStep_of_dropAll (s := s.withSched rest) hm]
    exact congrArg _ (State.parseReads_of_zero (s := s.withSched rest) h0 _)
  · rw [step_of_fsm hf hs hm, State.parseStep_of_dropPrefix (s := s.withSched rest) hm]
    exact congrArg _ (State.parseReads_of_zero (s := s.withSched rest) h0 _)
  · rw [step_of_fsm hf hs hm, State.parseStep_of_commit (s := s.withSched rest) hm]
    exact congrArg _ (State.parseReads_of_zero (s := s.withSched rest) h0 _)

/-! ## The checks of a frame -/

theorem State.stepDropOne_of_queueRead {b : Byte} (h : s.queueRead = .ok (some b, s.dropFront)) :
    s.stepDropOne = s.dropFront.finishParse .notSynced :=
  State.parseRead_of_queueRead h _

theorem State.stepHdr_eq_ite (s : State) :
    s.stepHdr = { s with fsm := if headerOk s.par s.snap then .len else .dropOne } := by
  cases h : headerOk s.par s.snap <;> simp [State.stepHdr, h]

/-- Settles O38: the header check, and the one READ of DROP_ONE. -/
theorem headerMismatchDropsOneByte : Obligations.HeaderMismatchDropsOneByte := by
  intro s b q rest hf hs hrd hwr
  constructor
  · intro hm
    rw [step_of_fsm hf hs hm, State.parseStep_of_hdr (s := s.withSched rest) hm, State.stepHdr_eq_ite]
    simp only [headerOk, byteAt, beq_iff_eq]
    rfl
  · intro hm hq
    obtain ⟨hread, hrest⟩ := State.queueRead_of_holds (s := s.withSched rest) ⟨hrd, hwr⟩ hq
    rw [step_of_fsm hf hs hm, State.parseStep_of_dropOne (s := s.withSched rest) hm, State.stepDropOne_of_queueRead hread]
    exact ⟨_, rfl, hrest, rfl, rfl, rfl⟩

/-- A big-endian pair of bytes as a number; 16 bits hold every such number (30_encoding.md R67). -/
theorem be16_eq (hi lo : Byte) : (be16 hi lo).toNat = hi.toNat * 256 + lo.toNat := by
  have := hi.isLt
  have := lo.isLt
  simp [be16, BitVec.toNat_add, BitVec.toNat_mul]
  omega

/-- `FL` as a number, exact (30_encoding.md R68). -/
theorem frameLength_eq (f : List Byte) : frameLength (frameDL f) (frameOL f) =
    7 + ((byteAt f 1).toNat * 256 + (byteAt f 2).toNat) + (byteAt f 3).toNat := by
  rw [frameLength, frameDL, be16_eq, frameOL]

/-- Settles O39: the fields as numbers, then the two checks in their order. -/
theorem lengthsDecideOversizeAndShort : Obligations.LengthsDecideOversizeAndShort := by
  intro s rest hf hs hm dl ol fl
  have hdl : (frameDL s.snap).toNat = dl := be16_eq ..
  have hfl : frameLength (frameDL s.snap) (frameOL s.snap) = fl := frameLength_eq s.snap
  refine ⟨_, step_of_fsm hf hs hm, ?_⟩
  rw [State.parseStep_of_len (s := s.withSched rest) hm]
  simp only [State.stepLen, State.withSched_snap, hfl, Params.maxFrame, State.withSched_par, snapMax, State.withSched_work]
  split
  · exact ⟨hdl, rfl, rfl, rfl, rfl, rfl⟩
  · split
    · exact ⟨hdl, rfl, rfl, rfl, ⟨rfl, rfl⟩, rfl⟩
    · exact ⟨hdl, rfl, rfl, rfl, rfl, rfl⟩

/-- Settles O40: DATA's own check. -/
theorem dataMismatchIsAFalseSync : Obligations.DataMismatchIsAFalseSync := by
  intro s rest hf hs hm n
  rw [step_of_fsm hf hs hm, State.parseStep_of_data (s := s.withSched rest) hm]
  simp only [State.stepData, dataOk, byteAt, beq_iff_eq]
  rfl

end Sys2Proof.Machine
end

section
/-! A frame read back (43_framer.md R146 to R153): the packets a snapshot gives are exactly the ones whose frames it begins with. -/

namespace Sys2Proof.Machine

variable {p : Params} {k : Packet} {f x : List Byte}

/-! ## Bytes of a sequence that goes on -/

theorem byteAt_append {i : Nat} (h : i < f.length) : byteAt (f ++ x) i = byteAt f i := List.getD_append _ _ _ _ h

theorem slice_append {a b : Nat} (h : b ≤ f.length) : slice (f ++ x) a b = slice f a b := by
  rcases Nat.le_total a b with hab | hba
  · rw [slice, slice, List.drop_append_of_le_length (hab.trans h), List.take_append_of_le_length]
    rw [List.length_drop]
    omega
  · rw [slice, slice, Nat.sub_eq_zero_of_le hba, List.take_zero, List.take_zero]

/-! ## The checks a packet passes -/

theorem verdict_eq_packet_iff : verdict p f = .packet k ↔
    minFrame ≤ f.length ∧ headerOk p f = true ∧ frameLength (frameDL f) (frameOL f) ≤ p.maxFrame ∧
      frameLength (frameDL f) (frameOL f) ≤ f.length ∧ dataOk p f ((frameDL f).toNat + (frameOL f).toNat) = true ∧
      framePacket f (frameDL f) (frameOL f) (framePT f) = k := by
  unfold verdict
  split
  next hl => simp [Nat.not_le_of_lt hl]
  next hl =>
    split
    next hh => simp [hh]
    next hh =>
      split
      next ho => simp [Nat.not_le_of_lt ho]
      next ho =>
        split
        next hs => simp [Nat.not_le_of_lt hs]
        next hs =>
          split
          next hd => simp [hd]
          next hd =>
            simp only [Bool.not_eq_false] at hh hd
            simp [Nat.not_lt.1 hl, hh, Nat.not_lt.1 ho, Nat.not_lt.1 hs, hd]

/-! ## A frame that passes them is its packet's -/

theorem ofNat_be16_div (hi lo : Byte) : BitVec.ofNat 8 ((be16 hi lo).toNat / 256) = hi := by
  have := hi.isLt
  have := lo.isLt
  rw [be16_eq, show (hi.toNat * 256 + lo.toNat) / 256 = hi.toNat by omega, BitVec.ofNat_toNat, BitVec.setWidth_eq]

theorem ofNat_be16 (hi lo : Byte) : BitVec.ofNat 8 (be16 hi lo).toNat = lo := by
  have := lo.isLt
  apply BitVec.eq_of_toNat_eq
  rw [be16_eq, BitVec.toNat_ofNat]
  omega

/-- The header bytes of a packet with the lengths that three bytes say. -/
theorem headerBytes_of_lengths {hi lo n : Byte} (hd : k.data.length = (be16 hi lo).toNat)
    (ho : k.optionalData.length = n.toNat) : headerBytes k = [hi, lo, n, k.packetType] := by
  rw [headerBytes, hd, ho, ofNat_be16_div, ofNat_be16, BitVec.ofNat_toNat, BitVec.setWidth_eq]

theorem exists_six_cons_of_length (h : 6 ≤ f.length) : ∃ b0 b1 b2 b3 b4 b5 g, f = b0 :: b1 :: b2 :: b3 :: b4 :: b5 :: g := by
  match f, h with
  | b0 :: b1 :: b2 :: b3 :: b4 :: b5 :: g, _ => exact ⟨b0, b1, b2, b3, b4, b5, g, rfl⟩

/-- The bytes of a snapshot that the checks are about are the frame of the packet taken from it. -/
theorem take_frameLength_eq_frameBytes (hsync : f.head? = some syncByte) (hmin : minFrame ≤ f.length)
    (hh : headerOk p f = true) (hlen : frameLength (frameDL f) (frameOL f) ≤ f.length)
    (hd : dataOk p f ((frameDL f).toNat + (frameOL f).toNat) = true) :
    f.take (frameLength (frameDL f) (frameOL f)) = frameBytes p (framePacket f (frameDL f) (frameOL f) (framePT f)) := by
  obtain ⟨b0, b1, b2, b3, b4, b5, g, rfl⟩ := exists_six_cons_of_length (Nat.le_of_succ_le hmin)
  obtain rfl : b0 = syncByte := Option.some.inj hsync
  have hdrop (n : Nat) : (syncByte :: b1 :: b2 :: b3 :: b4 :: b5 :: g).drop (6 + n) = g.drop n := by
    rw [Nat.add_comm]; rfl
  set dl := (be16 b1 b2).toNat
  set ol := b3.toNat
  have hg : dl + ol < g.length := by
    have : 7 + dl + ol ≤ g.length + 6 := hlen
    omega
  have hheader : crc8 p [b1, b2, b3, b4] = b5 := eq_of_beq hh
  have hdata : crc8 p (g.take (dl + ol)) = g[dl + ol] := by
    have hcrc := eq_of_beq hd
    rw [slice, Nat.add_sub_cancel_left, byteAt, Nat.add_comm 6] at hcrc
    exact hcrc.trans (List.getD_eq_getElem _ _ hg)
  have hpacket : framePacket (syncByte :: b1 :: b2 :: b3 :: b4 :: b5 :: g) (be16 b1 b2) b3 b4 =
      ⟨b4, g.take dl, (g.drop dl).take ol⟩ := by
    rw [framePacket, slice, slice, hdrop, Nat.add_sub_cancel_left, Nat.add_sub_cancel_left]
    rfl
  have hdataLen : (g.take dl).length = dl := by rw [List.length_take]; omega
  have hoptLen : ((g.drop dl).take ol).length = ol := by rw [List.length_take, List.length_drop]; omega
  calc (syncByte :: b1 :: b2 :: b3 :: b4 :: b5 :: g).take (7 + dl + ol)
    _ = [syncByte] ++ [b1, b2, b3, b4] ++ [b5] ++ g.take (dl + ol + 1) := by
      rw [show 7 + dl + ol = dl + ol + 1 + 6 by omega]; rfl
    _ = [syncByte] ++ [b1, b2, b3, b4] ++ [b5] ++ (g.take (dl + ol) ++ [crc8 p (g.take (dl + ol))]) := by
      rw [hdata, List.take_succ_eq_append_getElem hg]
    _ = frameBytes p ⟨b4, g.take dl, (g.drop dl).take ol⟩ := by
      rw [frameBytes, headerBytes_of_lengths hdataLen hoptLen, hheader, ← List.take_add]
      simp only [List.append_assoc, List.take_add]
    _ = frameBytes p (framePacket (syncByte :: b1 :: b2 :: b3 :: b4 :: b5 :: g) (be16 b1 b2) b3 b4) := by rw [hpacket]

/-- Of a packet's frame with any bytes after it, the verdict is that packet, when the frame is not oversize (R150 to R153). -/
theorem verdict_frameBytes_append (hk : 7 + k.data.length + k.optionalData.length ≤ p.maxFrame) :
    verdict p (frameBytes p k ++ x) = .packet k := by
  have hwf : k.wf = true := packet_wf_iff.2 (by
    have : p.maxFrame ≤ snapMax := Nat.min_le_left ..
    rw [snapMax] at this
    omega)
  have hfl := frameBytes_length p k
  have hdl : frameDL (frameBytes p k ++ x) = frameDL (frameBytes p k) := by rw [frameBytes_eq_cons]; rfl
  have hol : frameOL (frameBytes p k ++ x) = frameOL (frameBytes p k) := by rw [frameBytes_eq_cons]; rfl
  have hpt : framePT (frameBytes p k ++ x) = k.packetType := by rw [frameBytes_eq_cons]; rfl
  have hheader : headerOk p (frameBytes p k ++ x) = true := by rw [frameBytes_eq_cons]; exact beq_self_eq_true _
  have hdata : dataOk p (frameBytes p k ++ x) (k.data.length + k.optionalData.length) = true := by
    have hlast := frameBytes_dataCrc p k
    rw [dataOk, slice_append (by omega), byteAt_append (by omega), ← Nat.add_assoc, slice_payload_frameBytes, byteAt,
      List.getD_eq_getElem?_getD, hlast]
    exact beq_self_eq_true _
  rw [verdict_eq_packet_iff, hdl, hol, hpt, frameLength, frameDL_frameBytes p hwf, frameOL_frameBytes p hwf, List.length_append]
  refine ⟨by rw [minFrame]; omega, hheader, hk, by omega, hdata, ?_⟩
  rw [framePacket, frameDL_frameBytes p hwf, frameOL_frameBytes p hwf, slice_append (by omega), slice_append (by omega),
    slice_data_frameBytes, slice_optionalData_frameBytes]

/-- Of a snapshot that begins with a sync byte, the verdict is a packet exactly when the snapshot begins with that packet's frame. -/
theorem verdict_eq_packet_iff_frameBytes (hsync : f.head? = some syncByte) : verdict p f = .packet k ↔
    frameBytes p k <+: f ∧ 7 + k.data.length + k.optionalData.length ≤ p.maxFrame := by
  constructor
  · intro h
    obtain ⟨hmin, hh, hmax, hlen, hd, rfl⟩ := verdict_eq_packet_iff.1 h
    have hframe := take_frameLength_eq_frameBytes hsync hmin hh hlen hd
    have hlength := congrArg List.length hframe
    rw [List.length_take, Nat.min_eq_left hlen, frameBytes_length] at hlength
    exact ⟨hframe ▸ List.take_prefix .., hlength ▸ hmax⟩
  · rintro ⟨⟨x, rfl⟩, hmax⟩
    exact verdict_frameBytes_append hmax

/-! ## What a PARSE of a whole queue returns -/

variable {q : List Byte}

theorem parseResult_nil (p : Params) : parseResult p [] = (.bufferEmpty, 0) := rfl

/-- With no sync byte in the snapshot all of it is noise (R144). -/
theorem parseResult_of_no_sync (hq : q ≠ []) (h : (q.take snapMax).findIdx? (· == syncByte) = none) :
    parseResult p q = (.notSynced, (q.take snapMax).length) := by
  obtain ⟨b, q', rfl⟩ := List.exists_cons_of_ne_nil hq
  rw [snapMax, List.take_succ_cons] at h ⊢
  simp only [parseResult, snapMax, List.take_succ_cons, h]

/-- With the first sync byte at `j` the verdict is on what a second snapshot copies from there (R145, R146). -/
theorem parseResult_of_sync {j : Nat} (h : (q.take snapMax).findIdx? (· == syncByte) = some j) :
    parseResult p q = (verdict p ((q.drop j).take snapMax), j + bytesRead (verdict p ((q.drop j).take snapMax))) := by
  cases q with
  | nil => simp at h
  | cons b q =>
    rw [snapMax, List.take_succ_cons] at h
    simp only [parseResult, snapMax, List.take_succ_cons, h]

/-- Where the first sync byte of a snapshot is. -/
theorem findIdx?_sync_take_eq_some_iff {j : Nat} : (q.take snapMax).findIdx? (· == syncByte) = some j ↔
    j < snapMax ∧ q[j]? = some syncByte ∧ syncByte ∉ q.take j := by
  constructor
  · intro h
    obtain ⟨hlt, hsync, hfirst⟩ := List.findIdx?_eq_some_iff_getElem.1 h
    have hmin : j < snapMax ∧ j < q.length := by rwa [List.length_take, lt_min_iff] at hlt
    rw [List.getElem_take, beq_iff_eq] at hsync
    refine ⟨hmin.1, List.getElem?_eq_some_iff.2 ⟨hmin.2, hsync⟩, fun hmem => ?_⟩
    obtain ⟨i, hi, hget⟩ := List.mem_take_iff_getElem.1 hmem
    have hij : i < j := (lt_min_iff.1 hi).1
    exact hfirst i hij (by rw [List.getElem_take, hget, beq_self_eq_true])
  · rintro ⟨hlt, hsync, hnoise⟩
    refine findIdx?_sync_of_first (by rwa [List.getElem?_take_of_lt hlt]) fun i hi hget => hnoise ?_
    rw [List.getElem?_take_of_lt (hi.trans hlt)] at hget
    exact List.mem_of_getElem? (i := i) (by rwa [List.getElem?_take_of_lt hi])

/-- Settles O44: the first sync byte divides the noise from the frame, and the verdict is about what follows it. -/
theorem packetExactlyForAValidFrame : Obligations.PacketExactlyForAValidFrame := by
  intro p q k n
  constructor
  · intro h
    rcases hj : (q.take snapMax).findIdx? (· == syncByte) with _ | j
    · by_cases hq : q = []
      · rw [hq, parseResult_nil] at h; cases h
      · rw [parseResult_of_no_sync hq hj] at h; cases h
    · rw [parseResult_of_sync hj, Prod.mk.injEq] at h
      obtain ⟨hv, hn⟩ := h
      obtain ⟨hlt, hsync, hnoise⟩ := findIdx?_sync_take_eq_some_iff.1 hj
      have hhead : ((q.drop j).take snapMax).head? = some syncByte := by
        rw [List.head?_take, if_neg (by decide), List.head?_drop, hsync]
      obtain ⟨⟨x, hx⟩, hmax⟩ := (verdict_eq_packet_iff_frameBytes hhead).1 hv
      have hlen : (q.take j).length = j := List.length_take_of_le (List.getElem?_eq_some_iff.1 hsync).1.le
      refine ⟨q.take j, x ++ (q.drop j).drop snapMax, ?_, hnoise, by rwa [hlen], hmax, ?_⟩
      · rw [List.append_assoc, ← List.append_assoc (frameBytes p k), hx, List.take_append_drop, List.take_append_drop]
      · rw [← hn, hv, hlen, bytesRead, minFrame]
  · rintro ⟨noise, rest, rfl, hnoise, hlt, hmax, rfl⟩
    have hj : ((noise ++ frameBytes p k ++ rest).take snapMax).findIdx? (· == syncByte) = some noise.length := by
      rw [findIdx?_sync_take_eq_some_iff, List.append_assoc, List.take_left, List.getElem?_append_right le_rfl, Nat.sub_self]
      exact ⟨hlt, rfl, hnoise⟩
    have hle : (frameBytes p k).length ≤ snapMax := by
      rw [frameBytes_length]; exact hmax.trans (Nat.min_le_left ..)
    rw [parseResult_of_sync hj, List.append_assoc, List.drop_left, List.take_append, List.take_of_length_le hle,
      verdict_frameBytes_append hmax, bytesRead, minFrame]

end Sys2Proof.Machine
end

section
/-! Progress of a PARSE (43_framer.md R158), and what its READs return (R156). -/

namespace Sys2Proof.Machine

/-! ## A PARSE that READs nothing -/

section
variable {p : Params} {q f : List Byte}

/-- A verdict that consumes nothing waits for more bytes than the snapshot has, and a frame that fits has room for them. -/
theorem verdict_of_bytesRead_eq_zero (h : bytesRead (verdict p f) = 0) :
    (verdict p f = .notEnoughBytes ∧ f.length < minFrame) ∨ (verdict p f = .short ∧ f.length < p.maxFrame) := by
  by_cases hl : f.length < minFrame
  · exact .inl ⟨verdict_of_length_lt hl, hl⟩
  · have hl := Nat.le_of_not_lt hl
    cases hh : headerOk p f with
    | false => rw [verdict_of_header_mismatch hl hh] at h; cases h
    | true =>
      by_cases ho : p.maxFrame < frameLength (frameDL f) (frameOL f)
      · rw [verdict_of_oversize hl hh ho] at h; cases h
      · have ho := Nat.le_of_not_lt ho
        by_cases hs : f.length < frameLength (frameDL f) (frameOL f)
        · exact .inr ⟨verdict_of_short hl hh ho hs, hs.trans_le ho⟩
        · rw [verdict_of_whole_frame hl hh ho (Nat.le_of_not_lt hs)] at h
          split at h
          · cases h
          · rw [bytesRead, minFrame] at h
            omega

/-- What a PARSE that READs nothing returns, and that the queue then has room (R158). -/
theorem parseResult_of_reads_nothing (hp : p.wf = true) (h : (parseResult p q).2 = 0) :
    (q = [] ∧ (parseResult p q).1 = .bufferEmpty) ∨
      (((parseResult p q).1 = .notEnoughBytes ∨ (parseResult p q).1 = .short) ∧ q.length < p.queueN - 1) := by
  rcases hj : (q.take snapMax).findIdx? (· == syncByte) with _ | j
  · by_cases hq : q = []
    · exact .inl ⟨hq, by rw [hq, parseResult_nil]⟩
    · rw [parseResult_of_no_sync hq hj, List.length_take, snapMax] at h
      have := List.length_pos_iff.2 hq
      omega
  · rw [parseResult_of_sync hj] at h ⊢
    obtain ⟨rfl, hzero⟩ := Nat.add_eq_zero_iff.1 h
    have hN := params_wf_iff.1 hp
    rw [List.drop_zero] at hzero ⊢
    rcases verdict_of_bytesRead_eq_zero hzero with ⟨hv, hlen⟩ | ⟨hv, hlen⟩
    · rw [List.length_take, snapMax, minFrame] at hlen
      exact .inr ⟨.inl hv, by omega⟩
    · rw [List.length_take, Params.maxFrame, snapMax] at hlen
      exact .inr ⟨.inr hv, by omega⟩

/-- PARSEs that consume take at least one byte each, so no more of them come than the queue holds bytes. -/
theorem exists_parse_reads_nothing (p : Params) (n : Nat) : ∀ {q : List Byte}, q.length ≤ n →
    ∃ m ≤ n, (parseResult p (queueAfterParses p m q)).2 = 0 := by
  induction n with
  | zero =>
    intro q hq
    obtain rfl := List.eq_nil_of_length_eq_zero (Nat.le_zero.1 hq)
    exact ⟨0, le_rfl, rfl⟩
  | succ n ih =>
    intro q hq
    by_cases h : (parseResult p q).2 = 0
    · exact ⟨0, Nat.zero_le _, h⟩
    · obtain ⟨m, hm, hzero⟩ := ih (q := q.drop (parseResult p q).2) (by rw [List.length_drop]; omega)
      exact ⟨m + 1, Nat.succ_le_succ hm, hzero⟩

/-- Settles O45: what a PARSE that READs nothing returns, and that as many PARSEs as the queue holds bytes get to one. -/
theorem parseMakesProgressOrWaits : Obligations.ParseMakesProgressOrWaits := fun p q hp _ =>
  ⟨parseResult_of_reads_nothing hp, exists_parse_reads_nothing p q.length le_rfl⟩

end

/-! ## The READs of a PARSE -/

variable {s : State}

/-- A READ finds the byte that the snapshot has at the READ's position, when what the snapshot has from there is at the
front of the queue. -/
theorem State.FrontIs.queueRead_getElem? {l : List Byte} {c n : Nat} (h : s.FrontIs (l.drop (c - (n + 1)))) (hs : s.Cursors)
    (hn : n + 1 ≤ c) (hc : c ≤ l.length) : ∃ b, l[c - (n + 1)]? = some b ∧ s.queueRead = .ok (some b, s.dropFront) := by
  obtain ⟨b, hget, hdrop⟩ := drop_sub_succ hn hc
  exact ⟨b, hget, (State.queueRead_of_front hs (hdrop ▸ h)).1⟩

theorem Inv.queueRead_of_dropAll {n : Nat} (h : Inv s) (hm : s.fsm = .dropAll) (hn : s.work.remaining = n + 1) :
    ∃ b, s.snap[s.snapCnt - (n + 1)]? = some b ∧ s.queueRead = .ok (some b, s.dropFront) := by
  obtain ⟨-, -, -, hrem, hfront⟩ := h.parse.dropAll hm
  rw [hn] at hrem hfront
  exact hfront.queueRead_getElem? h.cursors hrem h.length_snap.ge

theorem Inv.queueRead_of_dropPrefix {k n : Nat} (h : Inv s) (hm : s.fsm = .dropPrefix) (hk : s.work.k = some k)
    (hn : s.work.remaining = n + 1) : ∃ b, s.snap[k - (n + 1)]? = some b ∧ s.queueRead = .ok (some b, s.dropFront) := by
  obtain ⟨k', hlt, hk', -, hrem, hfront⟩ := h.parse.dropPrefix hm
  obtain rfl : k = k' := Option.some.inj (hk.symm.trans hk')
  rw [hn] at hrem hfront
  exact hfront.queueRead_getElem? h.cursors hrem (h.length_snap.symm ▸ hlt.le)

theorem Inv.queueRead_of_dropOne (h : Inv s) (hm : s.fsm = .dropOne) :
    ∃ b, s.snap[0]? = some b ∧ s.queueRead = .ok (some b, s.dropFront) := by
  obtain ⟨⟨-, -, -, hhead⟩, hfront, -⟩ := h.parse.dropOne hm
  obtain ⟨bs, hbs⟩ := List.head?_eq_some_iff.1 hhead
  exact ⟨syncByte, List.head?_eq_getElem? ▸ hhead, (State.queueRead_of_front h.cursors (hbs ▸ hfront)).1⟩

theorem Inv.queueRead_of_commit {n : Nat} (h : Inv s) (hm : s.fsm = .commit) (hn : s.work.remaining = n + 1) :
    ∃ b, s.snap[s.work.fl - (n + 1)]? = some b ∧ s.queueRead = .ok (some b, s.dropFront) := by
  obtain ⟨⟨-, -, -, -, -, -, -, hcnt⟩, -, hrem, hfront⟩ := h.parse.commit hm
  rw [hn] at hrem hfront
  have hlen : s.work.fl ≤ (s.snap.take s.work.fl).length := by rw [List.length_take, h.length_snap, Nat.min_eq_left hcnt]
  obtain ⟨b, hget, hread⟩ := hfront.queueRead_getElem? h.cursors hrem hlen
  rw [List.getElem?_take_of_lt (by omega)] at hget
  exact ⟨b, hget, hread⟩

/-- Settles O47: in each of the four states the invariant says where in the snapshot the front of the queue is. -/
theorem parseReadsWhatItSnapshotted : Obligations.ParseReadsWhatItSnapshotted := fun _ _ h =>
  ⟨h.queueRead_of_dropAll, fun _ => h.queueRead_of_dropPrefix, h.queueRead_of_dropOne, h.queueRead_of_commit⟩

end Sys2Proof.Machine
end

section
/-! The engine's registers are its own (10_state.md R26, R27; 43_framer.md R161): everything outside the engine depends on the ones
that the state of `FSM` makes live, and none is live while no PARSE is in progress. -/

namespace Sys2Proof.Machine

/-- `s` with the engine's registers, `SNAPBUF`, `SNAPCNT` and the working values, as `g` has them. -/
def State.withEngine (s g : State) : State := { s with snapBuf := g.snapBuf, snapCnt := g.snapCnt, work := g.work }

/-- `g` has the registers that the engine still reads in the state of `FSM` of `s` as `s` has them (43_framer.md R140). -/
def State.LiveEq (s g : State) : Prop :=
  match s.fsm with
  | .idle | .snap1 | .snap2 | .dropOne => True
  | .scan => g.snap = s.snap ∧ g.work.c1 = s.work.c1
  | .dropAll | .dropPrefix => g.work.remaining = s.work.remaining
  | .hdr | .len => g.snap = s.snap ∧ g.work.c2 = s.work.c2
  | .data => g.snap = s.snap ∧ g.work.dl = s.work.dl ∧ g.work.ol = s.work.ol ∧ g.work.pt = s.work.pt ∧ g.work.fl = s.work.fl
  | .commit => g.parsedPacket = s.parsedPacket ∧ g.work.remaining = s.work.remaining
  | .event => g.parsedPacket = s.parsedPacket ∧ g.work.out = s.work.out
  | .tx | .done => g.work.out = s.work.out

/-- The two states differ at most in registers of the engine that are not live. -/
structure State.Alike (s s' : State) : Prop where
  rest : s' = s.withEngine s'
  live : s.LiveEq s'

variable {s t g : State}

theorem State.Alike.refl (s : State) : s.Alike s := by
  refine ⟨rfl, ?_⟩
  unfold State.LiveEq
  split <;> simp

theorem State.liveEq_of_not_live (h : s.fsm = .idle ∨ s.fsm = .snap1) : s.LiveEq g := by
  rcases h with h | h <;> simp only [State.LiveEq, h]

/-! ## The queue's operations do not read the engine's registers -/

theorem State.queueKept_withEngine (s g : State) : s.QueueKept (s.withEngine g) := ⟨rfl, rfl, rfl, rfl, rfl⟩

theorem State.readElems_withEngine (s g : State) (j n : Nat) : (s.withEngine g).readElems j n = s.readElems j n :=
  (s.queueKept_withEngine g).readElems j n

theorem State.snapshot_withEngine (s g : State) (m : Nat) : (s.withEngine g).snapshot m = s.snapshot m :=
  s.readElems_withEngine g 0 (min m s.len)

/-- READ on the two states: the same fault, or the same byte and the same change. -/
theorem State.queueRead_withEngine (s g : State) :
    (∃ f, s.queueRead = .error f ∧ (s.withEngine g).queueRead = .error f) ∨
    (∃ b u, (u = s ∨ u = s.dropFront) ∧ s.queueRead = .ok (b, u) ∧ (s.withEngine g).queueRead = .ok (b, u.withEngine g)) := by
  rcases s.queueRead_cases with ⟨he, h⟩ | ⟨he, hm, h⟩ | ⟨b, he, hm, h⟩
  · exact .inr ⟨none, s, .inl rfl, h, State.queueRead_of_empty (s := s.withEngine g) he⟩
  · exact .inl ⟨_, h, State.queueRead_error (s := s.withEngine g) he hm⟩
  · exact .inr ⟨some b, s.dropFront, .inr rfl, h, State.queueRead_of_cell (s := s.withEngine g) he hm⟩

/-! ## Every event but the engine's own transitions leaves its registers alone -/

theorem exec_withEngine {i : Instr} (g : State) (h : exec i s = .next t) : exec i (s.withEngine g) = .next (t.withEngine g) := by
  cases i with
  | write b =>
    rcases execWrite_cases b s with ⟨hf, h'⟩ | ⟨hf, h'⟩ <;> cases h'.symm.trans h
    · exact exec_write_of_full (s := s.withEngine g) hf b
    · exact exec_write_of_not_full (s := s.withEngine g) hf b
  | read =>
    rcases s.queueRead_withEngine g with ⟨f, h1, h2⟩ | ⟨b, u, -, h1, h2⟩
    · simp only [exec, execRead, h1] at h
      cases h
      simp only [exec, execRead, h2]
      rfl
    · cases (exec_read_of_queueRead h1).symm.trans h
      exact exec_read_of_queueRead h2
  | peek =>
    rcases s.queueRead_withEngine g with ⟨f, h1, h2⟩ | ⟨b, u, -, h1, h2⟩
    · simp only [exec, execPeek, h1] at h
      cases h
      simp only [exec, execPeek, h2]
      rfl
    · cases (exec_peek_of_queueRead h1).symm.trans h
      exact exec_peek_of_queueRead h2
  | snapshot m =>
    simp only [exec, execSnapshot, State.snapshot_withEngine] at h ⊢
    rcases hr : s.snapshot (countOperand m) with f | bs <;> rw [hr] at h <;> cases h <;> rfl
  | iterate =>
    have hl : (s.withEngine g).len = s.len := rfl
    simp only [exec, execIterate, State.readElems_withEngine, hl] at h ⊢
    rcases hr : s.readElems 0 s.len with f | bs <;> rw [hr] at h <;> cases h <;> rfl
  | len | parse => cases h; rfl

theorem State.serveRequest_withEngine {p : Port} (g : State) (h : s.serveRequest p = .next t) :
    (s.withEngine g).serveRequest p = .next (t.withEngine g) := by
  have hreq : (s.withEngine g).request p = s.request p := by cases p <;> rfl
  rcases hr : s.request p with _ | w
  · cases (State.serveRequest_none hr).symm.trans h
    exact State.serveRequest_none (hreq.trans hr)
  · rcases hd : decode p w with e | i
    · cases (State.serveRequest_error hr hd).symm.trans h
      rw [State.serveRequest_error (hreq.trans hr) hd]
      cases p <;> rfl
    · rw [State.serveRequest_ok hr hd] at h
      rw [State.serveRequest_ok (hreq.trans hr) hd]
      exact exec_withEngine g h

theorem State.rxService_withEngine (g : State) (h : s.rxService = .next t) : (s.withEngine g).rxService = .next (t.withEngine g) := by
  have hrxh : (s.withEngine g).rxh = s.rxh := rfl
  unfold State.rxService at h ⊢
  rw [hrxh]
  split at h
  next => cases h; rfl
  next b r _ => exact exec_withEngine (i := .write b) (s := { s with rxh := r }) g h

/-- An event but a reset, and but a transition of the engine, comes to the same on the two states. -/
theorem State.perform_withEngine {e : Event} (g : State) (he : e = .serve .cp → s.fsm = .idle) (hr : e ≠ .reset)
    (h : s.perform e = .next t) : (s.withEngine g).perform e = .next (t.withEngine g) := by
  cases e with
  | rx b =>
    cases h
    rw [State.perform, State.rxByte, State.rxByte, apply_ite (State.withEngine · g)]
    rfl
  | rxService =>
    have hen : (s.withEngine g).rxServiceEnabled = s.rxServiceEnabled := rfl
    rw [State.perform_rxService_eq_ite] at h ⊢
    rw [hen]
    split at h
    next hon => rw [if_pos hon]; exact State.rxService_withEngine g h
    next hoff => rw [if_neg hoff]; cases h; rfl
  | request p w =>
    cases h
    have hb : (s.withEngine g).busy p = s.busy p := by cases p <;> rfl
    rw [State.perform, State.placeRequest_eq_ite, State.placeRequest_eq_ite, hb]
    split
    · rfl
    · cases p <;> rfl
  | serve p =>
    cases p with
    | pp => exact State.serveRequest_withEngine g h
    | cp =>
      have hm := he rfl
      rw [State.perform, State.serve_cp_idle hm] at h
      rw [State.perform, State.serve_cp_idle (s := s.withEngine g) hm]
      exact State.serveRequest_withEngine g h
  | txSink => cases h; rfl
  | reset => exact absurd rfl hr

/-- An event but a reset, and but a step of the consumer, leaves `FSM` alone. -/
theorem State.perform_fsm {e : Event} (he : e ≠ .serve .cp) (hr : e ≠ .reset) (h : s.perform e = .next t) : t.fsm = s.fsm := by
  cases e with
  | rx b =>
    cases h
    rw [State.rxByte]
    split <;> rfl
  | rxService =>
    rw [State.perform_rxService_eq_ite] at h
    split at h
    · rcases s.rxService_cases with h' | ⟨b, r, -, -, h'⟩ | ⟨b, r, -, -, h'⟩ <;> cases h'.symm.trans h <;> rfl
    · cases h; rfl
  | request p w =>
    cases h
    rw [State.placeRequest_eq_ite]
    split
    · rfl
    · exact State.accept_fsm ..
  | serve p =>
    cases p with
    | pp => rcases s.serveRequest_pp_cases with h' | ⟨r, h'⟩ | ⟨b, -, h'⟩ <;> cases h'.symm.trans h <;> rfl
    | cp => exact absurd rfl he
  | txSink => cases h; rfl
  | reset => exact absurd rfl hr

/-- With no PARSE in progress the consumer's agent starts one at most. -/
theorem State.serveRequest_cp_fsm (hm : s.fsm = .idle) (h : s.serveRequest .cp = .next t) : t.fsm = .idle ∨ t.fsm = .snap1 := by
  rcases s.serveRequest_cp_cases with h' | h' | ⟨i, hi, -, h'⟩
  · cases h'.symm.trans h; exact .inl hm
  · cases h'.symm.trans h; exact .inl hm
  · rw [h'] at h
    rcases exec_cp_cases hi s with ⟨j, -, -, h'⟩ | ⟨r, h'⟩ | ⟨r, -, h'⟩ | ⟨-, h'⟩ <;> cases h'.symm.trans h
    · exact .inl hm
    · exact .inl hm
    · exact .inl hm
    · exact .inr rfl

end Sys2Proof.Machine
end

section
/-! The transitions of the engine read live registers only: from alike states they lead to alike states. -/

namespace Sys2Proof.Machine

variable {s g : State}

/-! ## Faults and snapshots -/

theorem State.LiveEq.raise (hl : s.LiveEq g) (f : Fault) : (s.raise f).Alike ((s.withEngine g).raise f) := ⟨rfl, hl⟩

/-- A snapshot overwrites the one before it. -/
theorem State.loadSnap_withEngine_snap (s g : State) (bs : List Byte) :
    ((s.withEngine g).loadSnap bs).snap = (s.loadSnap bs).snap := by
  rw [State.loadSnap_snap, State.loadSnap_snap]

theorem State.LiveEq.stepSnap1 (hl : s.LiveEq g) : s.stepSnap1.Alike (s.withEngine g).stepSnap1 := by
  simp only [State.stepSnap1, State.snapshot_withEngine]
  rcases s.snapshot snapMax with f | bs
  · exact hl.raise f
  · simp only
    split
    · exact ⟨rfl, rfl⟩
    · exact ⟨rfl, And.intro (s.loadSnap_withEngine_snap g bs) rfl⟩

theorem State.LiveEq.stepSnap2 (hl : s.LiveEq g) : s.stepSnap2.Alike (s.withEngine g).stepSnap2 := by
  simp only [State.stepSnap2, State.snapshot_withEngine]
  rcases s.snapshot snapMax with f | bs
  · exact hl.raise f
  · simp only
    split
    · exact ⟨rfl, rfl⟩
    · exact ⟨rfl, And.intro (s.loadSnap_withEngine_snap g bs) rfl⟩

/-! ## SCAN and READs -/

theorem State.alike_stepScan (hsnap : g.snap = s.snap) (hc1 : g.work.c1 = s.work.c1) :
    s.stepScan.Alike (s.withEngine g).stepScan := by
  have hsnap' : (s.withEngine g).snap = s.snap := hsnap
  simp only [State.stepScan, hsnap']
  rcases s.snap.findIdx? (· == syncByte) with _ | k
  · exact ⟨rfl, hc1⟩
  · exact ⟨rfl, rfl⟩

/-- A READ that leaves `n` more of them to issue. -/
theorem State.LiveEq.setRemaining (hl : s.LiveEq g) (hm : s.fsm = .dropAll ∨ s.fsm = .dropPrefix ∨ s.fsm = .commit) (n : Nat) :
    ({ s with work.remaining := n } : State).LiveEq { g with work.remaining := n } := by
  rcases hm with hm | hm | hm <;> simp only [State.LiveEq, hm] at hl ⊢
  exact ⟨hl.1, trivial⟩

theorem State.LiveEq.remaining (hl : s.LiveEq g) (hm : s.fsm = .dropAll ∨ s.fsm = .dropPrefix ∨ s.fsm = .commit) :
    g.work.remaining = s.work.remaining := by
  rcases hm with hm | hm | hm <;> simp only [State.LiveEq, hm] at hl
  · exact hl
  · exact hl
  · exact hl.2

theorem State.LiveEq.parseReads {exit : State → State} (hl : s.LiveEq g)
    (hm : s.fsm = .dropAll ∨ s.fsm = .dropPrefix ∨ s.fsm = .commit) (hexit : (exit s).Alike (exit (s.withEngine g))) :
    (s.parseReads exit).Alike ((s.withEngine g).parseReads exit) := by
  have hrem : (s.withEngine g).work.remaining = s.work.remaining := hl.remaining hm
  rcases hn : s.work.remaining with _ | n
  · rwa [State.parseReads_of_zero hn, State.parseReads_of_zero (hrem.trans hn)]
  · simp only [State.parseReads, hrem, hn, State.parseRead]
    rcases s.queueRead_withEngine g with ⟨f, h1, h2⟩ | ⟨b, u, hu, h1, h2⟩ <;> rw [h1, h2]
    · exact hl.raise f
    · rcases hu with rfl | rfl <;> exact ⟨rfl, hl.setRemaining hm n⟩

theorem State.LiveEq.stepDropOne (hl : s.LiveEq g) : s.stepDropOne.Alike (s.withEngine g).stepDropOne := by
  simp only [State.stepDropOne, State.parseRead]
  rcases s.queueRead_withEngine g with ⟨f, h1, h2⟩ | ⟨b, u, -, h1, h2⟩ <;> rw [h1, h2]
  · exact hl.raise f
  · exact ⟨rfl, rfl⟩

/-! ## The checks -/

theorem State.alike_stepHdr (hsnap : g.snap = s.snap) (hc2 : g.work.c2 = s.work.c2) :
    s.stepHdr.Alike (s.withEngine g).stepHdr := by
  have hok : headerOk (s.withEngine g).par (s.withEngine g).snap = headerOk s.par s.snap := congrArg (headerOk s.par) hsnap
  simp only [State.stepHdr, hok]
  split
  · exact ⟨rfl, And.intro hsnap hc2⟩
  · exact ⟨rfl, trivial⟩

theorem State.alike_stepLen (hsnap : g.snap = s.snap) (hc2 : g.work.c2 = s.work.c2) :
    s.stepLen.Alike (s.withEngine g).stepLen := by
  have hsnap' : (s.withEngine g).snap = s.snap := hsnap
  have hc2' : (s.withEngine g).work.c2 = s.work.c2 := hc2
  have hpar : (s.withEngine g).par = s.par := rfl
  simp only [State.stepLen, hsnap', hc2', hpar]
  split
  · exact ⟨rfl, trivial⟩
  · split
    · exact ⟨rfl, rfl⟩
    · exact ⟨rfl, And.intro hsnap ⟨rfl, rfl, rfl, rfl⟩⟩

theorem State.parsedPacket_congr (hsnap : g.snap = s.snap) (hdl : g.work.dl = s.work.dl) (hol : g.work.ol = s.work.ol)
    (hpt : g.work.pt = s.work.pt) : g.parsedPacket = s.parsedPacket := by
  rw [State.parsedPacket, hsnap, hdl, hol, hpt, State.parsedPacket]

theorem State.alike_stepData (hsnap : g.snap = s.snap) (hdl : g.work.dl = s.work.dl) (hol : g.work.ol = s.work.ol)
    (hpt : g.work.pt = s.work.pt) (hfl : g.work.fl = s.work.fl) : s.stepData.Alike (s.withEngine g).stepData := by
  have hok : dataOk (s.withEngine g).par (s.withEngine g).snap ((s.withEngine g).work.dl.toNat + (s.withEngine g).work.ol.toNat) =
      dataOk s.par s.snap (s.work.dl.toNat + s.work.ol.toNat) := by
    rw [← hsnap, ← hdl, ← hol]; rfl
  simp only [State.stepData, hok]
  split
  · exact ⟨rfl, And.intro (State.parsedPacket_congr hsnap hdl hol hpt) hfl⟩
  · exact ⟨rfl, trivial⟩

/-! ## Transmission, the response, and every state of `FSM` -/

theorem State.alike_stepEvent (hp : g.parsedPacket = s.parsedPacket) (hout : g.work.out = s.work.out) :
    s.stepEvent.Alike (s.withEngine g).stepEvent := by
  have hready : moduleReady (s.withEngine g).par (s.withEngine g).parsedPacket = moduleReady s.par s.parsedPacket :=
    congrArg (moduleReady s.par) hp
  simp only [State.stepEvent, hready]
  split <;> exact ⟨rfl, hout⟩

theorem State.alike_stepTx (hl : s.LiveEq g) (hout : g.work.out = s.work.out) : s.stepTx.Alike (s.withEngine g).stepTx := by
  have htx : (s.withEngine g).txPend = s.txPend := rfl
  simp only [State.stepTx, htx]
  split
  · exact ⟨rfl, hout⟩
  · exact ⟨rfl, hl⟩

theorem State.alike_stepDone (hout : g.work.out = s.work.out) : s.stepDone.Alike (s.withEngine g).stepDone := by
  have hout' : (s.withEngine g).work.out = s.work.out := hout
  simp only [State.stepDone, hout']
  exact ⟨rfl, trivial⟩

/-- One transition of the engine, on two states that agree on what it reads, gives two such states. -/
theorem State.LiveEq.parseStep (hl : s.LiveEq g) : s.parseStep.Alike (s.withEngine g).parseStep := by
  have hl' := hl
  unfold State.LiveEq at hl'
  unfold State.parseStep
  have hfsm : (s.withEngine g).fsm = s.fsm := rfl
  rw [hfsm]
  cases hm : s.fsm <;> simp only [hm] at hl' ⊢
  case idle => exact ⟨rfl, hl⟩
  case snap1 => exact hl.stepSnap1
  case scan => exact State.alike_stepScan hl'.1 hl'.2
  case dropAll => exact hl.parseReads (.inl hm) ⟨rfl, rfl⟩
  case dropPrefix => exact hl.parseReads (.inr (.inl hm)) ⟨rfl, trivial⟩
  case snap2 => exact hl.stepSnap2
  case hdr => exact State.alike_stepHdr hl'.1 hl'.2
  case dropOne => exact hl.stepDropOne
  case len => exact State.alike_stepLen hl'.1 hl'.2
  case data =>
    obtain ⟨hsnap, hdl, hol, hpt, hfl⟩ := hl'
    exact State.alike_stepData hsnap hdl hol hpt hfl
  case commit =>
    exact hl.parseReads (.inr (.inr hm)) ⟨rfl, And.intro hl'.1 (congrArg ParseOutcome.packet hl'.1)⟩
  case event => exact State.alike_stepEvent hl'.1 hl'.2
  case tx => exact State.alike_stepTx hl hl'
  case done => exact State.alike_stepDone hl'

end Sys2Proof.Machine
end

section
/-! A PARSE keeps nothing from one invocation to the next (43_framer.md R161): alike states stay alike along every run. -/

namespace Sys2Proof.Machine

variable {s t g : State}

/-- Registers that an event leaves alone stay live or not with `FSM`. -/
theorem State.LiveEq.of_kept (hl : s.LiveEq g) (hm : t.fsm = s.fsm) (ht : t = t.withEngine s) : t.LiveEq (t.withEngine g) := by
  rw [ht]
  have hm' : (t.withEngine s).fsm = s.fsm := hm
  unfold State.LiveEq
  rw [hm']
  exact hl

theorem State.LiveEq.perform {e : Event} (hl : s.LiveEq g) (h : s.perform e = .next t) :
    ∃ t', (s.withEngine g).perform e = .next t' ∧ t.Alike t' := by
  by_cases hr : e = .reset
  · subst hr; cases h; exact ⟨_, rfl, .refl _⟩
  by_cases hcp : e = .serve .cp
  · subst hcp
    by_cases hm : s.fsm = .idle
    · have h' : s.serveRequest .cp = .next t := State.serve_cp_idle hm ▸ h
      exact ⟨_, State.perform_withEngine g (fun _ => hm) hr h, rfl, State.liveEq_of_not_live (State.serveRequest_cp_fsm hm h')⟩
    · cases (State.serve_cp_parsing hm).symm.trans h
      exact ⟨_, State.serve_cp_parsing (s := s.withEngine g) hm, hl.parseStep⟩
  · have hkept (g : State) := State.perform_withEngine g (fun he => absurd he hcp) hr h
    have ht : t = t.withEngine s := Host.Outcome.next.inj (h.symm.trans (hkept s))
    exact ⟨_, hkept g, rfl, hl.of_kept (State.perform_fsm hcp hr h) ht⟩

theorem State.Alike.step {s' : State} (ha : s.Alike s') (h : step s = .next t) : ∃ t', step s' = .next t' ∧ t.Alike t' := by
  obtain ⟨hs', hl⟩ := ha
  rw [hs']
  rcases step_next_cases h with ⟨hf, hs, rfl⟩ | ⟨e, rest, hs, hf, h⟩ | ⟨rest, hs, rfl⟩
  · exact ⟨_, step_of_nil (s := t.withEngine s') hf hs, rfl, hl⟩
  · obtain ⟨t', ht', ha⟩ := State.LiveEq.perform (s := s.withSched rest) hl h
    exact ⟨t', (step_of_cons (s := s.withEngine s') hf hs).trans ht', ha⟩
  · exact ⟨_, step_of_reset (s := s.withEngine s') hs, .refl _⟩

/-- A run that ends in a next state begins with a step to one. -/
theorem exists_step_of_run_succ {M : Host.Core} {σ τ : M.State} {n : Nat} (h : M.run (n + 1) σ = .next τ) :
    ∃ u, M.step σ = .next u ∧ M.run n u = .next τ := by
  rw [Host.Core.run] at h
  split at h
  next u hu => exact ⟨u, hu, h⟩
  · cases h
  · cases h

theorem State.Alike.run {n : Nat} {s' : State} (ha : s.Alike s') (h : Host.Core.run Sys2Proof.core n s = .next t) :
    ∃ t', Host.Core.run Sys2Proof.core n s' = .next t' ∧ t.Alike t' := by
  induction n generalizing s s' with
  | zero => cases h; exact ⟨s', rfl, ha⟩
  | succ n ih =>
    obtain ⟨u, hu, h⟩ := exists_step_of_run_succ (M := Sys2Proof.core) h
    obtain ⟨u', hu', ha'⟩ := ha.step hu
    obtain ⟨t', ht', hat⟩ := ih ha' h
    exact ⟨t', (run_succ_of_step (M := Sys2Proof.core) hu').trans ht', hat⟩

/-- Settles O48: the two states begin alike, since none of the registers is live in `IDLE`, and every step keeps them alike. -/
theorem engineRegistersNeverLeak : Obligations.EngineRegistersNeverLeak := by
  intro s t buf cnt regs es hm h
  have halike : (s.withSched es).Alike { s with snapBuf := buf, snapCnt := cnt, work := regs, sched := es } :=
    ⟨rfl, State.liveEq_of_not_live (.inl hm)⟩
  obtain ⟨t', ht', hrest, -⟩ := halike.run h
  exact ⟨t', ht', by rw [hrest]; rfl⟩

end Sys2Proof.Machine
end

section
/-! A whole PARSE (43_framer.md R140, R157): the engine's run on a queue comes to what `parseResult` says of its contents. -/

namespace Sys2Proof.Machine

variable {s t : State} {o : ParseOutcome} {q r log : List Byte} {d : Nat}

/-! ## What a PARSE in progress comes to -/

/-- On a queue that holds `q` the PARSE in progress is to answer `o` after `d` more READs, by the state of `FSM`. -/
def State.Due (s : State) (q : List Byte) (o : ParseOutcome) (d : Nat) : Prop :=
  match s.fsm with
  | .snap1 => parseResult s.par q = (o, d)
  | .scan => s.snap = q.take snapMax ∧ parseResult s.par q = (o, d)
  | .dropAll => o = .notSynced ∧ d = s.work.remaining
  | .dropPrefix => o = verdict s.par ((q.drop s.work.remaining).take snapMax) ∧ d = s.work.remaining + bytesRead o
  | .snap2 => o = verdict s.par (q.take snapMax) ∧ d = bytesRead o
  | .hdr | .len | .data | .dropOne => o = verdict s.par s.snap ∧ d = bytesRead o
  | .commit => o = verdict s.par s.snap ∧ d = s.work.remaining
  | .event => o = verdict s.par s.snap ∧ d = 0
  | .tx | .done => o = s.work.out ∧ d = 0
  | .idle => s.cpReq = none ∧ s.cpRsp = some (.outcome o) ∧ d = 0

/-- What a PARSE in progress that is to answer `o` has still to transmit: the reply goes out in EVENT (44_transmit.md R180). -/
def State.toEmit (s : State) (o : ParseOutcome) : List Byte :=
  match s.fsm with
  | .tx | .done | .idle => []
  | _ => emitted s.par o

/-- The PARSE in progress is to end with the outcome `o`, with `r` in the queue and `log` transmitted. -/
structure State.Owes (s : State) (o : ParseOutcome) (r log : List Byte) : Prop where
  queue : ∃ q d, s.Holds q ∧ s.Due q o d ∧ q.drop d = r
  log_eq : s.txLog ++ s.toEmit o = log

/-- A bound on the steps of the consumer before it idles or waits for the sink (70_reset_and_hazards.md R231; log 13): after SCAN at
most 127 READs of noise, then at most 128 of the frame, and one step for each other state on the way. -/
def State.stepsLeft (s : State) : Nat :=
  match s.fsm with
  | .snap1 => 265
  | .scan => 264
  | .dropAll => s.work.remaining + 2
  | .dropPrefix => s.work.remaining + 136
  | .snap2 => 135
  | .hdr => 134
  | .len => 133
  | .data => 132
  | .commit => s.work.remaining + 3
  | .event | .dropOne => 2
  | .tx => if s.txPend = [] then 2 else 0
  | .done => 1
  | .idle => 0

/-- The two states differ at most in what a PARSE and the sink change. -/
def State.ParseFrame (s t : State) : Prop :=
  t = { s with
    sched := t.sched, rd := t.rd, cell := t.cell, snapBuf := t.snapBuf, snapCnt := t.snapCnt, fsm := t.fsm, work := t.work
    cbusy := t.cbusy, cpReq := t.cpReq, cpRsp := t.cpRsp, txPend := t.txPend, txLog := t.txLog, fault := t.fault }

theorem State.ParseFrame.trans {u : State} (h : s.ParseFrame t) (h' : t.ParseFrame u) : s.ParseFrame u := by
  unfold State.ParseFrame at h h' ⊢
  rw [h', h]

/-- From `s` to `t` the PARSE in progress has come nearer to what it is to end with, and nothing else has changed. -/
structure State.Nearer (s t : State) (o : ParseOutcome) (r log : List Byte) : Prop where
  owes : t.Owes o r log
  steps : t.stepsLeft < s.stepsLeft
  frame : s.ParseFrame t

/-! ## The transitions that READ -/

theorem State.not_empty_of_queueRead {b : Byte} {u : State} (h : s.queueRead = .ok (some b, u)) : s.empty = false := by
  rw [Bool.eq_false_iff]
  intro he
  rw [State.queueRead_of_empty he] at h
  cases h

/-- A READ of a repetition: one byte and one READ fewer. -/
theorem State.Owes.nearer_of_reading {b : Byte} {n : Nat} (ho : s.Owes o r log) (hc : s.Cursors)
    (hm : s.fsm = .dropAll ∨ s.fsm = .dropPrefix ∨ s.fsm = .commit) (hn : s.work.remaining = n + 1)
    (hread : s.queueRead = .ok (some b, s.dropFront)) : s.Nearer s.parseStep o r log := by
  obtain ⟨⟨q, d, hq, hdue, rfl⟩, rfl⟩ := ho
  obtain ⟨b', q', rfl, hq'⟩ := hq.dropFront hc (State.not_empty_of_queueRead hread)
  rw [State.parseStep_of_reading hm hn hread]
  have hdue' : ∃ d', d = d' + 1 ∧ State.Due { s.dropFront with work := { s.work with remaining := n } } q' o d' := by
    rcases hm with hm | hm | hm <;> simp only [State.Due, hm, hn, State.dropFront_fsm] at hdue ⊢
    · exact ⟨n, hdue.2, hdue.1, rfl⟩
    · exact ⟨n + bytesRead o, by omega, hdue.1, rfl⟩
    · exact ⟨n, hdue.2, hdue.1, rfl⟩
  obtain ⟨d', rfl, hdue'⟩ := hdue'
  refine ⟨⟨⟨q', d', hq', hdue', rfl⟩, rfl⟩, ?_, rfl⟩
  rcases hm with hm | hm | hm <;> simp only [State.stepsLeft, hm, hn, State.dropFront_fsm] <;> omega

theorem State.Owes.nearer_of_dropAll (ho : s.Owes o r log) (h : Inv s) (hm : s.fsm = .dropAll) : s.Nearer s.parseStep o r log := by
  rcases hn : s.work.remaining with _ | n
  · obtain ⟨⟨q, d, hq, hdue, hr⟩, hlog⟩ := ho
    simp only [State.Due, State.toEmit, hm, hn] at hdue hlog
    obtain ⟨rfl, rfl⟩ := hdue
    rw [State.parseStep_of_dropAll hm, State.stepDropAll, State.parseReads_of_zero hn]
    exact ⟨⟨⟨q, 0, hq, ⟨rfl, rfl⟩, hr⟩, hlog⟩, by simp only [State.stepsLeft, hm, hn, State.finishParse_fsm]; omega, rfl⟩
  · obtain ⟨b, -, hread⟩ := h.queueRead_of_dropAll hm hn
    exact ho.nearer_of_reading h.cursors (.inl hm) hn hread

theorem State.Owes.nearer_of_dropPrefix (ho : s.Owes o r log) (h : Inv s) (hm : s.fsm = .dropPrefix) :
    s.Nearer s.parseStep o r log := by
  rcases hn : s.work.remaining with _ | n
  · obtain ⟨⟨q, d, hq, hdue, hr⟩, hlog⟩ := ho
    simp only [State.Due, State.toEmit, hm, hn, List.drop_zero, Nat.zero_add] at hdue hlog
    rw [State.parseStep_of_dropPrefix hm, State.stepDropPrefix, State.parseReads_of_zero hn]
    exact ⟨⟨⟨q, d, hq, hdue, hr⟩, hlog⟩, by simp only [State.stepsLeft, hm]; omega, rfl⟩
  · obtain ⟨k, -, hk, -⟩ := h.parse.dropPrefix hm
    obtain ⟨b, -, hread⟩ := h.queueRead_of_dropPrefix hm hk hn
    exact ho.nearer_of_reading h.cursors (.inr (.inl hm)) hn hread

theorem State.Owes.nearer_of_commit (ho : s.Owes o r log) (h : Inv s) (hm : s.fsm = .commit) : s.Nearer s.parseStep o r log := by
  rcases hn : s.work.remaining with _ | n
  · obtain ⟨⟨q, d, hq, hdue, hr⟩, hlog⟩ := ho
    simp only [State.Due, State.toEmit, hm, hn] at hdue hlog
    rw [State.parseStep_of_commit hm, State.stepCommit, State.parseReads_of_zero hn]
    exact ⟨⟨⟨q, d, hq, hdue, hr⟩, hlog⟩, by simp only [State.stepsLeft, hm]; omega, rfl⟩
  · obtain ⟨b, -, hread⟩ := h.queueRead_of_commit hm hn
    exact ho.nearer_of_reading h.cursors (.inr (.inr hm)) hn hread

theorem State.Owes.nearer_of_dropOne (ho : s.Owes o r log) (h : Inv s) (hm : s.fsm = .dropOne) : s.Nearer s.parseStep o r log := by
  obtain ⟨-, -, hv⟩ := h.parse.dropOne hm
  obtain ⟨b, -, hread⟩ := h.queueRead_of_dropOne hm
  obtain ⟨⟨q, d, hq, hdue, rfl⟩, hlog⟩ := ho
  obtain ⟨b', q', rfl, hq'⟩ := hq.dropFront h.cursors (State.not_empty_of_queueRead hread)
  simp only [State.Due, State.toEmit, hm, hv] at hdue hlog
  obtain ⟨rfl, rfl⟩ := hdue
  rw [State.parseStep_of_dropOne hm, State.stepDropOne_of_queueRead hread]
  exact ⟨⟨⟨q', 0, hq', ⟨rfl, rfl⟩, rfl⟩, hlog⟩, by simp only [State.stepsLeft, hm, State.finishParse_fsm]; omega, rfl⟩

/-! ## The snapshots and SCAN -/

theorem State.Owes.nearer_of_snap1 (ho : s.Owes o r log) (hm : s.fsm = .snap1) : s.Nearer s.parseStep o r log := by
  obtain ⟨⟨q, d, hq, hdue, hr⟩, hlog⟩ := ho
  simp only [State.Due, State.toEmit, hm] at hdue hlog
  rw [State.parseStep_of_snap1 hm, State.stepSnap1_of_holds hq]
  by_cases hnil : q = []
  · rw [hnil, parseResult_nil, Prod.mk.injEq] at hdue
    obtain ⟨rfl, rfl⟩ := hdue
    rw [if_pos hnil, if_pos hnil]
    exact ⟨⟨⟨q, 0, hq, ⟨rfl, rfl⟩, hr⟩, hlog⟩, by simp only [State.stepsLeft, hm]; omega, rfl⟩
  · rw [if_neg hnil, if_neg hnil]
    exact ⟨⟨⟨q, d, hq, ⟨State.loadSnap_snap s _, hdue⟩, hr⟩, hlog⟩, by simp only [State.stepsLeft, hm]; omega, rfl⟩

theorem State.Owes.nearer_of_scan (ho : s.Owes o r log) (h : Inv s) (hm : s.fsm = .scan) : s.Nearer s.parseStep o r log := by
  obtain ⟨hc1, hpos, -⟩ := h.parse.scan hm
  obtain ⟨⟨q, d, hq, hdue, hr⟩, hlog⟩ := ho
  simp only [State.Due, State.toEmit, hm] at hdue hlog
  obtain ⟨hsnap, hdue⟩ := hdue
  rw [State.parseStep_of_scan hm]
  rcases hk : s.snap.findIdx? (· == syncByte) with _ | k
  · rw [State.stepScan_of_no_sync hk]
    have hlen := h.length_snap
    have hmax := h.snap_count
    rw [hsnap] at hk hlen
    have hne : q ≠ [] := by rintro rfl; rw [← hlen] at hpos; cases hpos
    rw [parseResult_of_no_sync hne hk, Prod.mk.injEq] at hdue
    rw [snapMax] at hmax
    refine ⟨⟨⟨q, d, hq, ⟨hdue.1.symm, by rw [← hdue.2, hlen, ← hc1]⟩, hr⟩, hlog⟩, ?_, rfl⟩
    simp only [State.stepsLeft, hm, hc1]
    omega
  · rw [State.stepScan_of_sync hk]
    rw [hsnap] at hk
    rw [parseResult_of_sync hk, Prod.mk.injEq] at hdue
    obtain ⟨rfl, rfl⟩ := hdue
    have hlt := (findIdx?_sync_take_eq_some_iff.1 hk).1
    rw [snapMax] at hlt
    refine ⟨⟨⟨q, _, hq, ⟨rfl, rfl⟩, hr⟩, hlog⟩, ?_, rfl⟩
    simp only [State.stepsLeft, hm]
    omega

theorem State.Owes.nearer_of_snap2 (ho : s.Owes o r log) (hm : s.fsm = .snap2) : s.Nearer s.parseStep o r log := by
  obtain ⟨⟨q, d, hq, hdue, hr⟩, hlog⟩ := ho
  simp only [State.Due, State.toEmit, hm] at hdue hlog
  rw [State.parseStep_of_snap2 hm, State.stepSnap2_of_holds hq]
  by_cases hlt : q.length < minFrame
  · rw [verdict_of_length_lt ((List.length_take_le' ..).trans_lt hlt)] at hdue
    obtain ⟨rfl, rfl⟩ := hdue
    rw [if_pos hlt, if_pos hlt]
    exact ⟨⟨⟨q, 0, hq, ⟨rfl, rfl⟩, hr⟩, hlog⟩, by simp only [State.stepsLeft, hm]; omega, rfl⟩
  · rw [if_neg hlt, if_neg hlt]
    refine ⟨⟨⟨q, d, hq, ?_, hr⟩, hlog⟩, by simp only [State.stepsLeft, hm]; omega, rfl⟩
    rw [← State.loadSnap_snap s (q.take snapMax)] at hdue
    exact hdue

/-! ## The checks -/

theorem State.Owes.nearer_of_hdr (ho : s.Owes o r log) (hm : s.fsm = .hdr) : s.Nearer s.parseStep o r log := by
  obtain ⟨⟨q, d, hq, hdue, hr⟩, hlog⟩ := ho
  simp only [State.Due, State.toEmit, hm] at hdue hlog
  rw [State.parseStep_of_hdr hm, State.stepHdr_eq_ite]
  split <;> exact ⟨⟨⟨q, d, hq, hdue, hr⟩, hlog⟩, by simp only [State.stepsLeft, hm]; omega, rfl⟩

theorem State.Owes.nearer_of_len (ho : s.Owes o r log) (h : Inv s) (hm : s.fsm = .len) : s.Nearer s.parseStep o r log := by
  obtain ⟨hsnapped, -, hok⟩ := h.parse.len hm
  have hmin := h.minFrame_le_length_snap hsnapped
  obtain ⟨-, hc2, -⟩ := hsnapped
  obtain ⟨⟨q, d, hq, hdue, hr⟩, hlog⟩ := ho
  simp only [State.Due, State.toEmit, hm] at hdue hlog
  rw [State.parseStep_of_len hm]
  simp only [State.stepLen]
  split
  · exact ⟨⟨⟨q, d, hq, hdue, hr⟩, hlog⟩, by simp only [State.stepsLeft, hm]; omega, rfl⟩
  next hfits =>
    split
    next hshort =>
      rw [verdict_of_short hmin hok (Nat.le_of_not_lt hfits) (by rwa [h.length_snap, ← hc2])] at hdue
      obtain ⟨rfl, rfl⟩ := hdue
      exact ⟨⟨⟨q, 0, hq, ⟨rfl, rfl⟩, hr⟩, hlog⟩, by simp only [State.stepsLeft, hm, State.finishParse_fsm]; omega, rfl⟩
    · exact ⟨⟨⟨q, d, hq, hdue, hr⟩, hlog⟩, by simp only [State.stepsLeft, hm]; omega, rfl⟩

/-- The READs of COMMIT are those of the packet's frame (R153, R157). -/
theorem Inv.bytesRead_parsedPacket (h : Inv s) (hs : s.Sized) : bytesRead (.packet s.parsedPacket) = s.work.fl := by
  obtain ⟨-, -, -, -, -, hfl, -, hcnt⟩ := hs
  rw [← h.length_snap, hfl, frameLength] at hcnt
  simp only [bytesRead, State.parsedPacket, framePacket, slice, List.length_take, List.length_drop]
  rw [hfl, frameLength, minFrame]
  omega

theorem State.Owes.nearer_of_data (ho : s.Owes o r log) (h : Inv s) (hm : s.fsm = .data) : s.Nearer s.parseStep o r log := by
  obtain ⟨hsized, -⟩ := h.parse.data hm
  have hv := h.verdict_of_sized hsized
  have hread := h.bytesRead_parsedPacket hsized
  obtain ⟨-, -, -, -, -, -, hmax, -⟩ := hsized
  obtain ⟨⟨q, d, hq, hdue, hr⟩, hlog⟩ := ho
  simp only [State.Due, State.toEmit, hm] at hdue hlog
  rw [State.parseStep_of_data hm, State.stepData]
  split
  next hok =>
    rw [if_neg (by simp [hok])] at hv
    have hfl : d = s.work.fl := by rw [hdue.2, hdue.1, hv, hread]
    have hle : s.work.fl ≤ snapMax := hmax.trans (Nat.min_le_left ..)
    rw [snapMax] at hle
    refine ⟨⟨⟨q, d, hq, ⟨hdue.1, hfl⟩, hr⟩, hlog⟩, ?_, rfl⟩
    simp only [State.stepsLeft, hm]
    omega
  · exact ⟨⟨⟨q, d, hq, hdue, hr⟩, hlog⟩, by simp only [State.stepsLeft, hm]; omega, rfl⟩

/-! ## Transmission and the response -/

theorem reply_ne_nil (p : Params) : reply p ≠ [] := List.cons_ne_nil _ _

theorem State.Owes.nearer_of_event (ho : s.Owes o r log) (h : Inv s) (hm : s.fsm = .event) : s.Nearer s.parseStep o r log := by
  obtain ⟨-, hv, hout⟩ := h.parse.event hm
  obtain ⟨⟨q, d, hq, hdue, hr⟩, hlog⟩ := ho
  simp only [State.Due, State.toEmit, hm, hv] at hdue hlog
  obtain ⟨rfl, rfl⟩ := hdue
  rw [State.parseStep_of_event hm, State.stepEvent]
  split
  next hready =>
    rw [emitted, if_pos hready] at hlog
    refine ⟨⟨⟨q, 0, hq, ⟨hout.symm, rfl⟩, hr⟩, (List.append_nil _).trans hlog⟩, ?_, rfl⟩
    have hwaits : s.txPend ++ reply s.par ≠ [] := List.append_ne_nil_of_right_ne_nil _ (reply_ne_nil s.par)
    simp only [State.stepsLeft, hm, State.emitReply_txPend, hwaits, if_false]
    omega
  next hready =>
    rw [emitted, if_neg hready] at hlog
    exact ⟨⟨⟨q, 0, hq, ⟨hout.symm, rfl⟩, hr⟩, hlog⟩, by simp only [State.stepsLeft, hm]; omega, rfl⟩

theorem State.stepTx_of_sent (htx : s.txPend = []) : s.stepTx = { s with fsm := .done } := if_pos htx

theorem State.Owes.nearer_of_tx (ho : s.Owes o r log) (hm : s.fsm = .tx) (htx : s.txPend = []) : s.Nearer s.parseStep o r log := by
  obtain ⟨⟨q, d, hq, hdue, hr⟩, hlog⟩ := ho
  simp only [State.Due, State.toEmit, hm] at hdue hlog
  rw [State.parseStep_of_tx hm, State.stepTx_of_sent htx]
  exact ⟨⟨⟨q, d, hq, hdue, hr⟩, hlog⟩, by simp only [State.stepsLeft, hm, htx, if_true]; omega, rfl⟩

theorem State.Owes.nearer_of_done (ho : s.Owes o r log) (hm : s.fsm = .done) : s.Nearer s.parseStep o r log := by
  obtain ⟨⟨q, d, hq, hdue, hr⟩, hlog⟩ := ho
  simp only [State.Due, State.toEmit, hm] at hdue hlog
  obtain ⟨rfl, rfl⟩ := hdue
  rw [State.parseStep_of_done hm, State.stepDone]
  exact ⟨⟨⟨q, 0, hq, ⟨rfl, rfl, rfl⟩, hr⟩, hlog⟩, by simp only [State.stepsLeft, hm]; omega, rfl⟩

end Sys2Proof.Machine
end

section
/-! The run of a whole PARSE: the consumer's steps, the sink's, and the response (43_framer.md R140, 44_transmit.md R180 to R183). -/

namespace Sys2Proof.Machine

variable {s t : State} {o : ParseOutcome} {r log : List Byte}

/-! ## The consumer's steps -/

/-- One transition of the engine comes nearer to the end, unless it idles or waits for the sink. -/
theorem State.Owes.nearer_parseStep (ho : s.Owes o r log) (h : Inv s) (hs : s.stepsLeft ≠ 0) : s.Nearer s.parseStep o r log := by
  cases hm : s.fsm with
  | idle => exact absurd (by simp only [State.stepsLeft, hm]) hs
  | snap1 => exact ho.nearer_of_snap1 hm
  | scan => exact ho.nearer_of_scan h hm
  | dropAll => exact ho.nearer_of_dropAll h hm
  | dropPrefix => exact ho.nearer_of_dropPrefix h hm
  | snap2 => exact ho.nearer_of_snap2 hm
  | hdr => exact ho.nearer_of_hdr hm
  | dropOne => exact ho.nearer_of_dropOne h hm
  | len => exact ho.nearer_of_len h hm
  | data => exact ho.nearer_of_data h hm
  | commit => exact ho.nearer_of_commit h hm
  | event => exact ho.nearer_of_event h hm
  | tx =>
    refine ho.nearer_of_tx hm (by_contra fun htx => hs ?_)
    simp only [State.stepsLeft, hm, if_neg htx]
  | done => exact ho.nearer_of_done hm

theorem State.stepsLeft_eq_zero_iff : s.stepsLeft = 0 ↔ s.fsm = .idle ∨ (s.fsm = .tx ∧ s.txPend ≠ []) := by
  cases hm : s.fsm <;> simp [State.stepsLeft, hm]

/-- Once it idles or waits for the sink, the engine stays as it is. -/
theorem State.parseStep_of_stepsLeft_eq_zero (hs : s.stepsLeft = 0) : s.parseStep = s := by
  rcases State.stepsLeft_eq_zero_iff.1 hs with hm | ⟨hm, htx⟩
  · exact State.parseStep_of_idle hm
  · rw [State.parseStep_of_tx hm, State.stepTx, if_neg htx]

/-- A step of the consumer is one of the engine, also after the response: then there is nothing to serve. -/
theorem State.Owes.serve_cp (ho : s.Owes o r log) : s.serve .cp = .next s.parseStep := by
  by_cases hm : s.fsm = .idle
  · obtain ⟨⟨q, d, -, hdue, -⟩, -⟩ := ho
    simp only [State.Due, hm] at hdue
    rw [State.serve_cp_idle hm, State.parseStep_of_idle hm]
    exact State.serveRequest_none hdue.1
  · exact State.serve_cp_parsing hm

theorem State.Owes.withSched (ho : s.Owes o r log) (es : List Event) : (s.withSched es).Owes o r log := ⟨ho.queue, ho.log_eq⟩

theorem State.Owes.txSink (ho : s.Owes o r log) : s.txSink.Owes o r log := ⟨ho.queue, ho.log_eq⟩

theorem State.Owes.parseStep (ho : s.Owes o r log) (h : Inv s) :
    s.parseStep.Owes o r log ∧ s.parseStep.stepsLeft ≤ s.stepsLeft - 1 ∧ s.ParseFrame s.parseStep := by
  by_cases hs : s.stepsLeft = 0
  · rw [State.parseStep_of_stepsLeft_eq_zero hs]
    exact ⟨ho, by omega, rfl⟩
  · obtain ⟨howes, hsteps, hframe⟩ := ho.nearer_parseStep h hs
    exact ⟨howes, by omega, hframe⟩

/-- A run whose first event is a step of the consumer. -/
theorem State.Owes.runEvents_serve (ho : s.Owes o r log) (h : Inv s) (es : List Event) :
    runEvents s (.serve .cp :: es) = runEvents (s.withSched es).parseStep es :=
  runEvents_cons h.no_fault (ho.withSched es).serve_cp

/-! ## The three parts of the run -/

/-- Enough steps of the consumer bring the PARSE to its response, or to the wait for the sink. -/
theorem State.Owes.runEvents_serves {n : Nat} (ho : s.Owes o r log) (h : Inv s) (hn : s.stepsLeft ≤ n) (es : List Event) :
    ∃ t, runEvents s (List.replicate n (.serve .cp) ++ es) = runEvents t es ∧
      Inv t ∧ t.Owes o r log ∧ t.stepsLeft = 0 ∧ s.ParseFrame t := by
  induction n generalizing s with
  | zero => exact ⟨s, rfl, h, ho, Nat.le_zero.1 hn, rfl⟩
  | succ n ih =>
    set es' := List.replicate n (.serve .cp) ++ es
    have h' := h.withSched es'
    obtain ⟨howes, hsteps, hframe⟩ := (ho.withSched es').parseStep h'
    have hle : (s.withSched es').stepsLeft = s.stepsLeft := rfl
    obtain ⟨t, hrun, ht, htowes, hzero, hframe'⟩ := ih howes h'.parseStep (by omega)
    exact ⟨t, (ho.runEvents_serve h es').trans hrun, ht, htowes, hzero, hframe.trans hframe'⟩

/-- Steps of the sink take bytes of `TXPEND` and change nothing else (44_transmit.md R183). -/
theorem State.Owes.runEvents_txSinks (n : Nat) (ho : s.Owes o r log) (h : Inv s) (es : List Event) :
    ∃ t, runEvents s (List.replicate n .txSink ++ es) = runEvents t es ∧
      Inv t ∧ t.Owes o r log ∧ t.fsm = s.fsm ∧ t.txPend = s.txPend.drop n ∧ s.ParseFrame t := by
  induction n generalizing s with
  | zero => exact ⟨s, rfl, h, ho, rfl, rfl, rfl⟩
  | succ n ih =>
    set es' := List.replicate n .txSink ++ es
    obtain ⟨t, hrun, ht, htowes, hm, htx, hframe⟩ := ih (ho.withSched es').txSink (h.withSched es').txSink
    exact ⟨t, (runEvents_cons h.no_fault rfl).trans hrun, ht, htowes, hm, htx.trans List.drop_tail, hframe⟩

/-- With nothing left for the sink, two steps of the consumer give the response. -/
theorem State.Owes.runEvents_finish (ho : s.Owes o r log) (h : Inv s) (hm : s.fsm = .idle ∨ s.fsm = .tx) (htx : s.txPend = []) :
    ∃ t, runEvents s (List.replicate 2 (.serve .cp)) = .next (t.withSched []) ∧
      Inv t ∧ t.Owes o r log ∧ t.fsm = .idle ∧ s.ParseFrame t := by
  have h0 := h.withSched [.serve .cp]
  obtain ⟨howes, -, hframe⟩ := (ho.withSched [.serve .cp]).parseStep h0
  have h1 := h0.parseStep.withSched []
  obtain ⟨howes', -, hframe'⟩ := (howes.withSched []).parseStep h1
  have hidle : ((s.withSched [.serve .cp]).parseStep.withSched []).parseStep.fsm = .idle := by
    rcases hm with hm | hm
    · rw [State.parseStep_of_idle (s := s.withSched [.serve .cp]) hm]
      exact (congrArg State.fsm (State.parseStep_of_idle (s := s.withSched []) hm)).trans hm
    · rw [State.parseStep_of_tx (s := s.withSched [.serve .cp]) hm, State.stepTx_of_sent (s := s.withSched [.serve .cp]) htx,
        State.parseStep_of_done rfl]
      rfl
  exact ⟨_, (ho.runEvents_serve h _).trans ((howes.runEvents_serve h0.parseStep []).trans (runEvents_nil _)),
    h1.parseStep, howes', hidle, hframe.trans hframe'⟩

/-- The request's own step: the engine starts, and what the PARSE is to end with is what `parseResult` says of the contents. -/
theorem Inv.owes_parse {q : List Byte} (h : Inv s) (hm : s.fsm = .idle) (hreq : s.cpReq = some (encode .parse)) (hq : s.Holds q)
    (es : List Event) : ∃ t, runEvents s (.serve .cp :: es) = runEvents t es ∧ Inv t ∧ t.stepsLeft = 265 ∧ s.ParseFrame t ∧
      t.Owes (parseResult s.par q).1 (q.drop (parseResult s.par q).2) (s.txLog ++ emitted s.par (parseResult s.par q).1) := by
  have hserve : (s.withSched es).perform (.serve .cp) = .next { s with sched := es, fsm := .snap1, cbusy := true } :=
    (State.serve_cp_idle (s := s.withSched es) hm).trans
      (State.serveRequest_ok (s := s.withSched es) (p := .cp) hreq (decode_encode .parse))
  exact ⟨_, runEvents_cons h.no_fault hserve, (h.withSched es).perform hserve, rfl, rfl, ⟨q, _, hq, rfl, rfl⟩, rfl⟩

/-- Settles O43: the request, enough steps of the engine, the sink, and two more steps, each keeping what the PARSE is to end with. -/
theorem parseComputesTheParseResult : Obligations.ParseComputesTheParseResult := by
  intro s q h hm hreq hq
  set sinks := List.replicate 9 Event.txSink
  set last := List.replicate 2 (Event.serve .cp)
  obtain ⟨s1, hrun1, h1, hsteps, hframe1, ho1⟩ := h.owes_parse hm hreq hq (List.replicate 265 (.serve .cp) ++ (sinks ++ last))
  obtain ⟨s2, hrun2, h2, ho2, hzero, hframe2⟩ := ho1.runEvents_serves h1 hsteps.le (sinks ++ last)
  obtain ⟨s3, hrun3, h3, ho3, hm3, htx3, hframe3⟩ := ho2.runEvents_txSinks 9 h2 last
  have hwait : s3.fsm = .idle ∨ s3.fsm = .tx := hm3 ▸ (State.stepsLeft_eq_zero_iff.1 hzero).imp_right And.left
  have hnil : s3.txPend = [] := htx3.trans (List.drop_eq_nil_of_le h2.tx_pending.length_le)
  obtain ⟨t, hrun4, ht, ⟨⟨q', d, hq', hdue, hdrop⟩, hlog⟩, hidle, hframe4⟩ := ho3.runEvents_finish h3 hwait hnil
  simp only [State.Due, State.toEmit, hidle, List.append_nil] at hdue hlog
  obtain ⟨hnoreq, hrsp, rfl⟩ := hdue
  have hrun : runEvents s (List.replicate 266 (.serve .cp) ++ sinks ++ last) = .next (t.withSched []) := by
    rw [List.append_assoc, List.replicate_succ, List.cons_append]
    exact hrun1.trans (hrun2.trans (hrun3.trans hrun4))
  have hframe := ((hframe1.trans hframe2).trans hframe3).trans hframe4
  have hbusy : t.cbusy = false := by rw [ht.cp_request, hnoreq]; rfl
  have hpend : t.txPend = s.txPend := (ht.tx_waits (by rw [hidle]; decide)).trans (h.tx_waits (by rw [hm]; decide)).symm
  have hfault : t.fault = s.fault := ht.no_fault.trans h.no_fault.symm
  refine ⟨t.withSched [], hrun, hrsp, hdrop ▸ hq', hlog, (congrArg (State.withSched · []) hframe).trans ?_⟩
  simp only [State.withSched, hnoreq, hbusy, hidle.trans hm.symm, hpend, hfault]

end Sys2Proof.Machine
end

section
/-! The reply and its sink, one step at a time (44_transmit.md R180 to R183): EVENT emits, `TXSNK` takes a byte, TX waits, DONE responds. -/

namespace Sys2Proof.Machine

variable {s : State}

/-! ## The sink -/

theorem State.txSink_of_cons {b : Byte} {r : List Byte} (h : s.txPend = b :: r) : s.txSink = { s with txPend := r } := by
  rw [State.txSink, h, List.tail_cons]

/-- With nothing pending the step is skipped (log 5). -/
theorem State.txSink_of_nil (h : s.txPend = []) : s.txSink = s := by
  rw [State.txSink, h, List.tail_nil, ← h]

/-- Settles O30, by whether a byte is pending. -/
theorem sinkAcceptsTheOldestByte : Obligations.SinkAcceptsTheOldestByte := by
  intro s rest hf hs
  have hstep : step s = .next (s.withSched rest).txSink := step_of_cons hf hs
  exact ⟨fun b r hb => hstep.trans (congrArg _ (State.txSink_of_cons hb)),
    fun hnil => hstep.trans (congrArg _ (State.txSink_of_nil hnil))⟩

/-! ## EVENT, TX and DONE -/

/-- The three conditions of R187. -/
theorem moduleReady_iff {p : Params} {k : Packet} : moduleReady p k = true ↔
    k.packetType = p.eventType ∧ 1 ≤ k.data.length ∧ k.data[0]? = some p.readyCode := by
  cases hd : k.data <;> simp [moduleReady, hd]

theorem State.stepEvent_of_ready (h : moduleReady s.par s.parsedPacket = true) :
    s.stepEvent = { s with fsm := .tx, txPend := s.txPend ++ reply s.par, txLog := s.txLog ++ reply s.par } := if_pos h

theorem State.stepEvent_of_not_ready (h : ¬ moduleReady s.par s.parsedPacket = true) :
    s.stepEvent = { s with fsm := .done } := if_neg h

/-- Settles O41, by whether the packet is module-ready. -/
theorem moduleReadyEmitsTheReply : Obligations.ModuleReadyEmitsTheReply := by
  intro s rest hf hs hm k
  rw [step_of_fsm hf hs hm, State.parseStep_of_event (s := s.withSched rest) hm]
  split
  next hready => exact congrArg _ (State.stepEvent_of_ready (s := s.withSched rest) (moduleReady_iff.2 hready))
  next hready => exact congrArg _ (State.stepEvent_of_not_ready (s := s.withSched rest) (mt moduleReady_iff.1 hready))

/-- Settles O42: TX is its one test of `TXPEND`, and DONE is the response. -/
theorem txWaitsForTheSinkThenDoneResponds : Obligations.TxWaitsForTheSinkThenDoneResponds := by
  intro s rest hf hs
  refine ⟨fun hm => ?_, fun hm => ?_⟩
  · rw [step_of_fsm hf hs hm, State.parseStep_of_tx (s := s.withSched rest) hm]
    rfl
  · rw [step_of_fsm hf hs hm, State.parseStep_of_done (s := s.withSched rest) hm]
    rfl

/-! ## The whole wait -/

/-- A PARSE that waits in TX owes its packet, with nothing more to READ or to transmit (R153, R182). -/
theorem Inv.owes_of_tx {q : List Byte} (h : Inv s) (hm : s.fsm = .tx) (hq : s.Holds q) :
    s.Owes (.packet s.parsedPacket) q s.txLog := by
  obtain ⟨-, -, hout, -⟩ := h.parse.tx hm
  refine ⟨⟨q, 0, hq, ?_, rfl⟩, ?_⟩
  · simp only [State.Due, hm, hout, and_self]
  · simp only [State.toEmit, hm, List.append_nil]

/-- Settles O49: the sink empties `TXPEND`, then two steps of the consumer give what the PARSE owes. -/
theorem txWaitEndsWhenTheSinkAccepts : Obligations.TxWaitEndsWhenTheSinkAccepts := by
  intro s h hm
  obtain ⟨q, hq⟩ := h.queue.holds
  obtain ⟨u, hrun, hu, howes, hum, htx, -⟩ :=
    (h.owes_of_tx hm hq).runEvents_txSinks s.txPend.length h (List.replicate 2 (.serve .cp))
  rw [List.drop_length] at htx
  obtain ⟨t, hrun', ht, ⟨⟨q', d, -, hdue, -⟩, hlog⟩, hidle, -⟩ := howes.runEvents_finish hu (.inr (hum.trans hm)) htx
  simp only [State.Due, State.toEmit, hidle, List.append_nil] at hdue hlog
  obtain ⟨hnoreq, hrsp, -⟩ := hdue
  have hbusy : t.cbusy = false := by rw [ht.cp_request, hnoreq]; rfl
  have hpend : t.txPend = [] := ht.tx_waits (by rw [hidle]; decide)
  exact ⟨t.withSched [], hrun.trans hrun', hidle, hpend, hbusy, hrsp, hlog⟩

end Sys2Proof.Machine
end

section
/-! What reaches the transmit path (44_transmit.md R184): the reply of a module-ready packet in EVENT, and nothing else. -/

namespace Sys2Proof.Machine

variable {s t : State}

/-- `TXPEND` and `TXLOG` are as they were. -/
structure State.TxKept (s t : State) : Prop where
  log : t.txLog = s.txLog
  pend : t.txPend = s.txPend

/-- EVENT with a module-ready packet: both `TXPEND` and `TXLOG` gain the whole reply (R180, R187). -/
structure State.Replies (s t : State) : Prop where
  event : s.fsm = .event
  ready : moduleReady s.par s.parsedPacket = true
  log : t.txLog = s.txLog ++ reply s.par
  pend : t.txPend = s.txPend ++ reply s.par

/-! ## Requests and received bytes -/

theorem State.placeRequest_txKept (s : State) (p : Port) (w : Word) : s.TxKept (s.placeRequest p w) := by
  rw [State.placeRequest_eq_ite]
  split
  · exact ⟨rfl, rfl⟩
  · exact ⟨s.accept_txLog p w, s.accept_txPend p w⟩

theorem State.rxByte_txKept (s : State) (b : Byte) : s.TxKept (s.rxByte b) := by
  unfold State.rxByte
  split <;> exact ⟨rfl, rfl⟩

theorem State.rxService_txKept (h : s.rxService = .next t) : s.TxKept t := by
  rcases s.rxService_cases with h' | ⟨b, r, -, -, h'⟩ | ⟨b, r, -, -, h'⟩ <;> cases h'.symm.trans h <;> exact ⟨rfl, rfl⟩

/-- No operation transmits when its request takes effect, PARSE included. -/
theorem State.serveRequest_txKept {p : Port} (h : s.serveRequest p = .next t) : s.TxKept t := by
  cases p with
  | pp => rcases s.serveRequest_pp_cases with h' | ⟨r, h'⟩ | ⟨b, -, h'⟩ <;> cases h'.symm.trans h <;> exact ⟨rfl, rfl⟩
  | cp =>
    rcases s.serveRequest_cp_cases with h' | h' | ⟨i, hi, -, h'⟩
    · cases h'.symm.trans h; exact ⟨rfl, rfl⟩
    · cases h'.symm.trans h; exact ⟨rfl, rfl⟩
    · rw [h'] at h
      rcases exec_cp_cases hi s with ⟨j, -, -, h'⟩ | ⟨r, h'⟩ | ⟨r, -, h'⟩ | ⟨-, h'⟩ <;> cases h'.symm.trans h <;>
        exact ⟨rfl, rfl⟩

/-! ## The engine -/

theorem State.parseRead_txKept {after : State → State} (ha : ∀ u : State, u.TxKept (after u)) : s.TxKept (s.parseRead after) := by
  rcases s.parseRead_cases after with ⟨-, h⟩ | ⟨-, -, h⟩ | ⟨b, -, -, h⟩ <;> rw [h]
  · exact ha s
  · exact ⟨rfl, rfl⟩
  · exact ⟨(ha s.dropFront).log, (ha s.dropFront).pend⟩

theorem State.parseReads_txKept {exit : State → State} (ha : ∀ u : State, u.TxKept (exit u)) : s.TxKept (s.parseReads exit) := by
  unfold State.parseReads
  split
  · exact ha s
  · exact State.parseRead_txKept fun _ => ⟨rfl, rfl⟩

/-- Every state of the engine but EVENT leaves the transmit path alone (R184). -/
theorem State.parseStep_txKept (he : s.fsm ≠ .event) : s.TxKept s.parseStep := by
  cases hm : s.fsm with
  | event => exact absurd hm he
  | dropAll | dropPrefix | commit =>
    simp only [State.parseStep, hm]
    exact State.parseReads_txKept fun _ => ⟨rfl, rfl⟩
  | dropOne =>
    simp only [State.parseStep, hm]
    exact State.parseRead_txKept fun _ => ⟨rfl, rfl⟩
  | idle | done =>
    simp only [State.parseStep, hm]
    exact ⟨rfl, rfl⟩
  | scan | hdr | data | tx =>
    simp only [State.parseStep, hm, State.stepScan, State.stepHdr, State.stepData, State.stepTx]
    split <;> exact ⟨rfl, rfl⟩
  | snap1 | snap2 | len =>
    simp only [State.parseStep, hm, State.stepSnap1, State.stepSnap2, State.stepLen]
    split
    · exact ⟨rfl, rfl⟩
    · split <;> exact ⟨rfl, rfl⟩

/-- One transition of the engine transmits in EVENT only, for a module-ready packet only, and then the reply. -/
theorem State.parseStep_tx (s : State) : s.TxKept s.parseStep ∨ s.Replies s.parseStep := by
  by_cases hm : s.fsm = .event
  · rw [State.parseStep_of_event hm]
    by_cases hready : moduleReady s.par s.parsedPacket = true
    · rw [State.stepEvent_of_ready hready]
      exact .inr ⟨hm, hready, rfl, rfl⟩
    · rw [State.stepEvent_of_not_ready hready]
      exact .inl ⟨rfl, rfl⟩
  · exact .inl (State.parseStep_txKept hm)

theorem State.serve_cp_tx (h : s.serve .cp = .next t) : s.TxKept t ∨ s.Replies t := by
  by_cases hm : s.fsm = .idle
  · exact .inl (State.serveRequest_txKept (State.serve_cp_idle hm ▸ h))
  · cases (State.serve_cp_parsing hm).symm.trans h
    exact s.parseStep_tx

/-! ## Every event -/

/-- Every event but a reset leaves the transmit path alone, or is the sink's, or is the consumer's and replies. -/
theorem State.perform_tx {e : Event} (he : e ≠ .reset) (h : s.perform e = .next t) :
    s.TxKept t ∨ (e = .txSink ∧ t = s.txSink) ∨ (e = .serve .cp ∧ s.Replies t) := by
  cases e with
  | rx b => cases h; exact .inl (s.rxByte_txKept b)
  | rxService =>
    rw [State.perform_rxService_eq_ite] at h
    split at h
    · exact .inl (State.rxService_txKept h)
    · cases h; exact .inl ⟨rfl, rfl⟩
  | request p w => cases h; exact .inl (s.placeRequest_txKept p w)
  | serve p =>
    cases p with
    | pp => exact .inl (State.serveRequest_txKept h)
    | cp => exact (State.serve_cp_tx h).imp_right fun hr => .inr ⟨rfl, hr⟩
  | txSink => cases h; exact .inr (.inl ⟨rfl, rfl⟩)
  | reset => exact absurd rfl he

/-- Settles O58: the step performs its event, and of the three things an event can do to the transmit path only EVENT's adds to it. -/
theorem onlyModuleReadyTransmits : Obligations.OnlyModuleReadyTransmits := by
  intro s t e rest hs h he
  rcases step_next_cases h with ⟨-, hnil, -⟩ | ⟨e', rest', hs', -, h⟩ | ⟨rest', hs', -⟩
  · rw [hs] at hnil; cases hnil
  · rw [hs] at hs'
    cases hs'
    rcases State.perform_tx he h with hkept | ⟨-, rfl⟩ | ⟨hc, hr⟩
    · exact .inl ⟨hkept.log, hkept.pend ▸ List.suffix_rfl⟩
    · exact .inl ⟨rfl, List.tail_suffix s.txPend⟩
    · exact .inr ⟨hc, hr.event, hr.ready, hr.log, hr.pend⟩
  · rw [hs] at hs'; cases hs'; exact absurd rfl he

end Sys2Proof.Machine
end

section
/-! The sink's duty (60_exceptions.md R204): `TXPEND` empties again and again, so the wait of a PARSE in TX ends (70_reset_and_hazards.md R226). -/

namespace Sys2Proof.Machine

variable {s t : State}

/-- Bytes wait in `TXPEND` only while a PARSE waits in TX (44_transmit.md R182). -/
theorem Inv.fsm_eq_tx (h : Inv s) (hp : s.txPend ≠ []) : s.fsm = .tx := by_contra fun hm => hp (h.tx_waits hm)

/-- While bytes wait in `TXPEND` no event adds to it: a reply comes from EVENT, and EVENT comes with `TXPEND` empty. -/
theorem Inv.perform_txPend_suffix {e : Event} (h : Inv s) (hp : s.txPend ≠ []) (hs : s.perform e = .next t) :
    t.txPend <:+ s.txPend := by
  by_cases he : e = .reset
  · subst he
    cases hs
    exact List.nil_suffix
  · rcases State.perform_tx he hs with hkept | ⟨-, rfl⟩ | ⟨-, hr⟩
    · exact hkept.pend ▸ List.suffix_rfl
    · exact List.tail_suffix s.txPend
    · cases hr.event.symm.trans (h.fsm_eq_tx hp)

/-- The sink takes one byte when one waits (R183). -/
theorem State.perform_txSink_length (hs : s.perform .txSink = .next t) (hp : s.txPend ≠ []) :
    t.txPend.length < s.txPend.length := by
  cases hs
  have hpos := List.length_pos_iff.2 hp
  rw [State.txSink, List.length_tail]
  omega

/-- Settles O59: were `TXPEND` never empty from `n` on, its length would never grow and the duty would make it go down to 0. -/
theorem fairSinkEmptiesTxPend : Obligations.FairSinkEmptiesTxPend := by
  intro ev tr hrun hfair hinv n
  by_contra! hwaits
  have hperform (m : Nat) := hrun.perform (hrun.inv hinv m).no_fault
  have hle (m : Nat) (hm : n ≤ m) : (tr (m + 1)).txPend.length ≤ (tr m).txPend.length :=
    (((hrun.inv hinv m).withSched []).perform_txPend_suffix (hwaits m hm) (hperform m)).length_le
  have hlt (k : Nat) (hk : n ≤ k) (_ : ∀ m, k ≤ m → (tr m).txPend.length ≠ 0) :
      ∃ m, k ≤ m ∧ (tr (m + 1)).txPend.length < (tr m).txPend.length := by
    obtain ⟨m, hkm, hev⟩ := hfair k fun m hm => hwaits m (hk.trans hm)
    have hstep := hperform m
    rw [hev] at hstep
    have htaken := State.perform_txSink_length hstep (hwaits m (hk.trans hkm))
    exact ⟨m, hkm, htaken⟩
  obtain ⟨m, hm, hzero⟩ := exists_eq_zero_of_decreasing hle hlt
  exact hwaits m hm (List.eq_nil_of_length_eq_zero hzero)

end Sys2Proof.Machine
end

section
/-! A port's agent with an illegal word or with no request, and the other steps that are not enabled (60_exceptions.md R191, R203). -/

namespace Sys2Proof.Machine

variable {s : State} {p : Port} {rest : List Event}

/-- The step of a port's agent serves the port's request, on `CP` when no PARSE is in progress. -/
theorem step_of_serve (hf : s.fault = none) (hs : s.sched = .serve p :: rest) (hidle : p = .cp → s.fsm = .idle) :
    step s = (s.withSched rest).serveRequest p :=
  (step_of_cons hf hs).trans (State.serve_eq_serveRequest hidle)

/-- R191 on either port. -/
theorem step_of_illegal {w : Word} {e : DecodeError} (hf : s.fault = none) (hs : s.sched = .serve p :: rest)
    (hidle : p = .cp → s.fsm = .idle) (hr : s.request p = some w) (hd : decode p w = .error e) :
    step s = .next ((s.withSched rest).respond p .illegal) :=
  (step_of_serve hf hs hidle).trans (State.serveRequest_error (by rwa [State.withSched_request]) hd)

/-- R203 on either port. -/
theorem step_of_no_request (hf : s.fault = none) (hs : s.sched = .serve p :: rest)
    (hidle : p = .cp → s.fsm = .idle) (hr : s.request p = none) : step s = .next (s.withSched rest) :=
  (step_of_serve hf hs hidle).trans (State.serveRequest_none (by rwa [State.withSched_request]))

/-- With nothing received RXSERVICE is skipped (R203; log 5). -/
theorem State.perform_rxService_of_nil (hr : s.rxh = []) : s.perform .rxService = .next s := by
  rw [State.perform_rxService_eq_ite, if_neg (by simp [State.rxServiceEnabled_iff, hr])]

/-- Settles O10, port by port: the whole step is the response `Illegal`. -/
theorem illegalWordIsAnsweredAndChangesNothing : Obligations.IllegalWordIsAnsweredAndChangesNothing := fun _ _ _ _ hf =>
  ⟨fun hs hr hd => step_of_illegal hf hs nofun hr hd, fun hs hm hr hd => step_of_illegal hf hs (fun _ => hm) hr hd⟩

/-- Settles O13, one reason to idle after another. -/
theorem idleAgentsKeepAllState : Obligations.IdleAgentsKeepAllState := by
  intro s rest hf
  refine ⟨step_of_nil hf, fun hs hr => ?pp, fun hs hr hm => ?cp, fun hs hr => ?rxService, fun hs hp => ?txSink⟩
  case pp => exact step_of_no_request hf hs nofun hr
  case cp => exact step_of_no_request hf hs (fun _ => hm) hr
  case rxService => exact (step_of_cons hf hs).trans (State.perform_rxService_of_nil (s := s.withSched rest) hr)
  case txSink => exact (step_of_cons hf hs).trans (congrArg _ (State.txSink_of_nil (s := s.withSched rest) hp))

end Sys2Proof.Machine
end

section
/-! Bounds of one PARSE (43_framer.md R157, R164; 70_reset_and_hazards.md R231): the bytes it READs, and a packet's payload. -/

namespace Sys2Proof.Machine

variable {p : Params} {q : List Byte} {k : Packet} {n : Nat}

/-- Outside a packet at most the false sync byte is READ after the noise (R157). -/
theorem bytesRead_le_one_or_packet (o : ParseOutcome) : bytesRead o ≤ 1 ∨ ∃ k, o = .packet k := by
  cases o with
  | packet k => exact .inr ⟨k, rfl⟩
  | bufferEmpty | notEnoughBytes | short => exact .inl (Nat.zero_le _)
  | notSynced => exact .inl le_rfl

/-- A PARSE that returns a packet READs fewer than `SNAP_MAX` noise bytes and one frame of at most `MAX_FRAME`, all of them in the queue. -/
theorem parseResult_packet_bounds (h : parseResult p q = (.packet k, n)) :
    n ≤ q.length ∧ n ≤ 255 ∧ k.data.length + k.optionalData.length ≤ payloadCap := by
  obtain ⟨noise, rest, rfl, -, hnoise, hmax, rfl⟩ := (packetExactlyForAValidFrame p q k n).1 h
  have hcap : 7 + k.data.length + k.optionalData.length ≤ 128 := hmax.trans (Nat.min_le_left ..)
  rw [List.length_append, List.length_append, frameBytes_length, payloadCap]
  omega

/-- Every READ of a PARSE takes a byte that the queue holds: noise before the sync byte, the false sync byte, or a frame. -/
theorem parseResult_reads_le (p : Params) (q : List Byte) : (parseResult p q).2 ≤ q.length ∧ (parseResult p q).2 ≤ 255 := by
  rcases hj : (q.take snapMax).findIdx? (· == syncByte) with _ | j
  · by_cases hq : q = []
    · rw [hq, parseResult_nil]
      exact ⟨le_rfl, Nat.zero_le _⟩
    · rw [parseResult_of_no_sync hq hj, List.length_take, snapMax]
      omega
  · have hres := parseResult_of_sync (p := p) hj
    rcases bytesRead_le_one_or_packet (verdict p ((q.drop j).take snapMax)) with hone | ⟨k, hk⟩
    · obtain ⟨hlt, hsync, -⟩ := findIdx?_sync_take_eq_some_iff.1 hj
      have hlen : j < q.length := (List.getElem?_eq_some_iff.1 hsync).1
      rw [snapMax] at hlt
      rw [hres]
      omega
    · rw [hk] at hres
      obtain ⟨hlen, hmax, -⟩ := parseResult_packet_bounds hres
      rw [hres]
      exact ⟨hlen, hmax⟩

/-- Settles O46: noise and one frame stay within the queue and within 255 bytes, and `MAX_FRAME` bounds the payload. -/
theorem parseReadsAndPayloadsAreBounded : Obligations.ParseReadsAndPayloadsAreBounded := by
  intro p q
  obtain ⟨hlen, hmax⟩ := parseResult_reads_le p q
  refine ⟨hlen, hmax, fun k hk => ?_⟩
  exact (parseResult_packet_bounds (n := (parseResult p q).2) (Prod.ext hk rfl)).2.2

end Sys2Proof.Machine
end

section
/-! Reset (70_reset_and_hazards.md R215, R218): its values, what it abandons, and the invariant it establishes. -/

namespace Sys2Proof.Machine

/-- Settles O50: both claims are about the block right after reset, with nothing or with the rest of the schedule to come. -/
theorem resetValues : Obligations.ResetValues := by
  unfold Obligations.ResetValues
  intro atReset
  have hvalues {p : Params} (hp : p.wf = true) (es : List Event) : atReset ((State.resetWith p).withSched es) :=
    ⟨rfl, rfl, fun _ => rfl, rfl, rfl, rfl, rfl, rfl, rfl, rfl, State.resetWith_status hp⟩
  have hdefault : Params.wf .default = true := by decide
  exact ⟨hvalues hdefault [], fun s rest hp _ hs => ⟨_, step_of_reset hs, hvalues hp rest⟩⟩

/-- Settles O51: the step of a reset event reads nothing of the state but its parameters and its schedule. -/
theorem resetAbandonsEverything : Obligations.ResetAbandonsEverything := fun _ _ => step_of_reset

/-- Settles O52, the base of O53. -/
theorem resetSatisfiesTheInvariant : Obligations.ResetSatisfiesTheInvariant := fun _ => Inv.resetWith

end Sys2Proof.Machine
end
